-- ==== Sys2Proof/Word.lean ====
section
/-! DEFINITION. The plain types of the values the block holds and moves. -/

namespace Sys2Proof

/-- The 64-bit data buses `wdata` and `rdata`: `DW = 64` in every configuration (R12, R90). The
widest value the block holds is 64 bits too, so a register's contents are a `Word` whose bits at
or above the register's width are 0 (log 2). -/
abbrev Word := BitVec 64

/-- A command word (R92): always 16 bits. -/
abbrev Cmd := BitVec 16

/-- A register index as the 5-bit field `idx` gives it (R96). -/
abbrev RegIdx := Fin 32

/-- The opaque snapshot of the fault-recovery context (R43): no bit of it is ever looked at, so it
is a number below `2 ^ FRC_BITS` and not a bit vector (log 8). -/
abbrev Snapshot := Nat

end Sys2Proof
end

