-- ==== Sys2Proof/Config.lean ====
section
/-! DEFINITION. The parameters fixed when the block is built (R8 to R12, R50). No free value: the
rules leave none open (INVENTORY.md, State). -/

namespace Sys2Proof

/-- Integer register width XLEN: narrow or wide variant (R8, R20). -/
inductive XLen where
  | x32
  | x64
  deriving DecidableEq, Repr

/-- FP register width FLEN: narrow or wide variant (R8, R30). -/
inductive FLen where
  | f32
  | f64
  deriving DecidableEq, Repr

/-- `BYTE_ORDER` (R11, R64): decides which end of a register a narrower view aliases. -/
inductive ByteOrder where
  | little
  | big
  deriving DecidableEq, Repr

/-- The build parameters (R50: not state; "compile-time constants ... not runtime-mutable"). They
stand in `State` so that one model covers every build; no step changes them (log 1). -/
structure Config where
  xlen      : XLen
  flen      : FLen
  iregCount : Nat
  fregCount : Nat
  order     : ByteOrder
  frcBits   : Nat
  deriving DecidableEq, Repr

/-- XLEN in bits. -/
def XLen.bits : XLen → Nat
  | .x32 => 32
  | .x64 => 64

/-- FLEN in bits. -/
def FLen.bits : FLen → Nat
  | .f32 => 32
  | .f64 => 64

/-- `CFG32` (R9), for either byte order and any snapshot width. -/
def Config.cfg32 (order : ByteOrder) (frcBits : Nat) : Config :=
  { xlen := .x32, flen := .f64, iregCount := 32, fregCount := 32, order := order, frcBits := frcBits }

/-- `CFG64` (R9), for either byte order and any snapshot width. -/
def Config.cfg64 (order : ByteOrder) (frcBits : Nat) : Config :=
  { xlen := .x64, flen := .f64, iregCount := 32, fregCount := 32, order := order, frcBits := frcBits }

/-- The build `State.reset` is of: `CFG64`, `LITTLE` (recommended in 92_eei_decisions.md D13),
64-bit snapshots. DESIGN CHOICE (log 1): the spec leaves the build to the model. -/
def Config.build : Config := Config.cfg64 .little 64

/-- The parameter values the rules speak of: a 5-bit index reaches at most 32 registers of each
file (R96), and a snapshot has a positive width (92_eei_decisions.md, open parameters). -/
abbrev Config.wf (c : Config) : Prop :=
  c.iregCount ≤ 32 ∧ c.fregCount ≤ 32 ∧ 0 < c.frcBits

/-- The two supported instantiations (R9). -/
abbrev Config.supported (c : Config) : Prop :=
  c.flen = .f64 ∧ c.iregCount = 32 ∧ c.fregCount = 32 ∧ 0 < c.frcBits

end Sys2Proof
end

