-- ==== Sys2Proof/Syntax.lean ====
section
/-! DEFINITION. The 47 commands of spec/opcode_table.json, one constructor per row, and the error
codes of R191. A write's operand is not in the word: it is `wdata` or `frc_in` (R99). -/

namespace Sys2Proof

/-- The commands (R100 to R103). `idx` is the register number 0 to 31 (R96). -/
inductive Instr where
  /-- `IRD.B` (R122). -/
  | irdB (idx : RegIdx)
  /-- `IRD.H` (R123). -/
  | irdH (idx : RegIdx)
  /-- `IRD.W` (R124). -/
  | irdW (idx : RegIdx)
  /-- `IRD.D` (R125). -/
  | irdD (idx : RegIdx)
  /-- `IRD.BU` (R126). -/
  | irdBU (idx : RegIdx)
  /-- `IRD.HU` (R127). -/
  | irdHU (idx : RegIdx)
  /-- `IRD.WU` (R128). -/
  | irdWU (idx : RegIdx)
  /-- `IRD.DU` (R129). -/
  | irdDU (idx : RegIdx)
  /-- `IWR.B` (R130). -/
  | iwrB (idx : RegIdx)
  /-- `IWR.H` (R131). -/
  | iwrH (idx : RegIdx)
  /-- `IWR.W` (R132). -/
  | iwrW (idx : RegIdx)
  /-- `IWR.D` (R133). -/
  | iwrD (idx : RegIdx)
  /-- `IWR.BU` (R134). -/
  | iwrBU (idx : RegIdx)
  /-- `IWR.HU` (R135). -/
  | iwrHU (idx : RegIdx)
  /-- `IWR.WU` (R136). -/
  | iwrWU (idx : RegIdx)
  /-- `IWR.DU` (R137). -/
  | iwrDU (idx : RegIdx)
  /-- `FRD.X` (R142). -/
  | frdX (idx : RegIdx)
  /-- `FRD.XU` (R143). -/
  | frdXU (idx : RegIdx)
  /-- `FRD.S` (R144). -/
  | frdS (idx : RegIdx)
  /-- `FRD.D` (R145). -/
  | frdD (idx : RegIdx)
  /-- `FWR.X` (R146). -/
  | fwrX (idx : RegIdx)
  /-- `FWR.XU` (R147). -/
  | fwrXU (idx : RegIdx)
  /-- `FWR.S` (R148). -/
  | fwrS (idx : RegIdx)
  /-- `FWR.D` (R149). -/
  | fwrD (idx : RegIdx)
  /-- `SRD.PC` (R152). -/
  | srdPc
  /-- `SWR.PC` (R153). -/
  | swrPc
  /-- `SRD.NODE` (R154). -/
  | srdNode
  /-- `SWR.NODE` (R155). -/
  | swrNode
  /-- `SRD.HART` (R156). -/
  | srdHart
  /-- `SWR.HART` (R157). -/
  | swrHart
  /-- `SRD.LOG` (R158). -/
  | srdLog
  /-- `SWR.LOG` (R159). -/
  | swrLog
  /-- `SRD.LR` (R160). -/
  | srdLr
  /-- `SWR.LR` (R161). -/
  | swrLr
  /-- `SRD.FAULT` (R162). -/
  | srdFault
  /-- `SWR.FAULT` (R163). -/
  | swrFault
  /-- `SRD.TIME` (R164). -/
  | srdTime
  /-- `SWR.TIME` (R165). -/
  | swrTime
  /-- `SRD.CYCLE` (R166). -/
  | srdCycle
  /-- `SWR.CYCLE` (R167). -/
  | swrCycle
  /-- `SRD.INSTRET` (R168). -/
  | srdInstret
  /-- `SWR.INSTRET` (R169). -/
  | swrInstret
  /-- `SRD.FCSR` (R170). -/
  | srdFcsr
  /-- `SWR.FCSR` (R171). -/
  | swrFcsr
  /-- `FRC.TAKE` (R182). -/
  | frcTake
  /-- `FRC.SET` (R181). -/
  | frcSet
  /-- `NOP` (R183). -/
  | nop
  deriving DecidableEq, Repr

/-- The six values of the `err` output (R191; codes 6 and 7 are never produced). -/
inductive ErrCode where
  /-- 0: the command was performed. -/
  | ok
  /-- 1, `ERR_CLASS`. -/
  | errClass
  /-- 2, `ERR_FIELD`. -/
  | errField
  /-- 3, `ERR_VIEW`. -/
  | errView
  /-- 4, `ERR_INDEX`. -/
  | errIndex
  /-- 5, `ERR_NO_RECOVERY`. -/
  | errNoRecovery
  deriving DecidableEq, Repr

end Sys2Proof
end

