-- ==== Sys2Proof/WellFormed.lean ====
section
/-! DEFINITION. When a command exists in a build: its view is one the register variant has (R21,
R30, R106) and its register index is below the count (R62, R96). -/

namespace Sys2Proof

/-- A 64-bit view of an integer register exists only in the wide variant (R97, R106). -/
def Config.hasWideIreg (c : Config) : Bool := c.xlen == .x64

/-- The double-precision view exists only in the wide variant (R98, R106). -/
def Config.hasDouble (c : Config) : Bool := c.flen == .f64

/-- Integer register `i` exists (R62, R96). -/
def Config.hasIreg (c : Config) (i : RegIdx) : Bool := decide (i.val < c.iregCount)

/-- FP register `i` exists (R62, R96). -/
def Config.hasFreg (c : Config) (i : RegIdx) : Bool := decide (i.val < c.fregCount)

/-- The command exists in build `c` (the "exists when" columns of R100, R101; R106). -/
def Instr.wf (c : Config) : Instr → Bool
  | .irdB i | .irdH i | .irdW i | .irdBU i | .irdHU i | .irdWU i => c.hasIreg i
  | .iwrB i | .iwrH i | .iwrW i | .iwrBU i | .iwrHU i | .iwrWU i => c.hasIreg i
  | .irdD i | .irdDU i | .iwrD i | .iwrDU i => c.hasWideIreg && c.hasIreg i
  | .frdX i | .frdXU i | .frdS i | .fwrX i | .fwrXU i | .fwrS i => c.hasFreg i
  | .frdD i | .fwrD i => c.hasDouble && c.hasFreg i
  | .srdPc | .srdNode | .srdHart | .srdLog | .srdLr | .srdFault | .srdTime | .srdCycle
  | .srdInstret | .srdFcsr => true
  | .swrPc | .swrNode | .swrHart | .swrLog | .swrLr | .swrFault | .swrTime | .swrCycle
  | .swrInstret | .swrFcsr => true
  | .frcTake | .frcSet | .nop => true

end Sys2Proof
end

