-- ==== Sys2Proof/Decode.lean ====
section
/-! DEFINITION. The command word `C16` (R92 to R99), the total decoder (R104), the encoder, and the
opcode map as the tables of R100 to R103 list it. -/

namespace Sys2Proof

/-- `cmd[15:12]` (R93). -/
def fieldClass (c : Cmd) : BitVec 4 := c.extractLsb' 12 4

/-- `cmd[11]` (R93). -/
def fieldWr (c : Cmd) : Bool := c.getLsbD 11

/-- `cmd[10:8]` (R93). -/
def fieldView (c : Cmd) : BitVec 3 := c.extractLsb' 8 3

/-- `cmd[7:5]` (R93). -/
def fieldZero (c : Cmd) : BitVec 3 := c.extractLsb' 5 3

/-- `cmd[4:0]` (R93). -/
def fieldIdx (c : Cmd) : RegIdx := (c.extractLsb' 0 5).toFin

/-- Step 2 of R104: some must-be-zero field is not zero. -/
def fieldDefect (c : Cmd) : Bool :=
  fieldZero c != 0
  || (fieldClass c == 0 && (fieldWr c || fieldView c != 0 || fieldIdx c != 0))
  || (fieldClass c == 3 && fieldView c != 0)
  || (fieldClass c == 4 && (fieldView c != 0 || fieldIdx c != 0))

/-- The width in bits of the integer view with code `view`: `8 << view[1:0]` (R97). -/
def iviewBits (view : BitVec 3) : Nat := 8 <<< (view.extractLsb' 0 2).toNat

/-- Step 3 of R104: the view does not exist in this build. -/
def viewDefect (cfg : Config) (c : Cmd) : Bool :=
  (fieldClass c == 1 && decide (iviewBits (fieldView c) > cfg.xlen.bits))
  || (fieldClass c == 2 && decide ((fieldView c).toNat ≥ 4))
  || (fieldClass c == 2 && fieldView c == 3 && cfg.flen == .f32)

/-- Step 4 of R104: the index selects nothing. -/
def indexDefect (cfg : Config) (c : Cmd) : Bool :=
  (fieldClass c == 1 && decide ((fieldIdx c).val ≥ cfg.iregCount))
  || (fieldClass c == 2 && decide ((fieldIdx c).val ≥ cfg.fregCount))
  || (fieldClass c == 3 && decide ((fieldIdx c).val ≥ 10))

/-- Class IREG by `wr` and `view` (R100). -/
def spellIreg (wr : Bool) (view : Nat) (idx : RegIdx) : Option Instr :=
  match wr, view with
  | false, 0 => some (.irdB idx)
  | false, 1 => some (.irdH idx)
  | false, 2 => some (.irdW idx)
  | false, 3 => some (.irdD idx)
  | false, 4 => some (.irdBU idx)
  | false, 5 => some (.irdHU idx)
  | false, 6 => some (.irdWU idx)
  | false, 7 => some (.irdDU idx)
  | true, 0 => some (.iwrB idx)
  | true, 1 => some (.iwrH idx)
  | true, 2 => some (.iwrW idx)
  | true, 3 => some (.iwrD idx)
  | true, 4 => some (.iwrBU idx)
  | true, 5 => some (.iwrHU idx)
  | true, 6 => some (.iwrWU idx)
  | true, 7 => some (.iwrDU idx)
  | _, _ => none

/-- Class FREG by `wr` and `view` (R101). -/
def spellFreg (wr : Bool) (view : Nat) (idx : RegIdx) : Option Instr :=
  match wr, view with
  | false, 0 => some (.frdX idx)
  | false, 1 => some (.frdXU idx)
  | false, 2 => some (.frdS idx)
  | false, 3 => some (.frdD idx)
  | true, 0 => some (.fwrX idx)
  | true, 1 => some (.fwrXU idx)
  | true, 2 => some (.fwrS idx)
  | true, 3 => some (.fwrD idx)
  | _, _ => none

/-- Class SREG by `wr` and scalar index (R102). -/
def spellSreg (wr : Bool) (idx : Nat) : Option Instr :=
  match wr, idx with
  | false, 0 => some .srdPc
  | false, 1 => some .srdNode
  | false, 2 => some .srdHart
  | false, 3 => some .srdLog
  | false, 4 => some .srdLr
  | false, 5 => some .srdFault
  | false, 6 => some .srdTime
  | false, 7 => some .srdCycle
  | false, 8 => some .srdInstret
  | false, 9 => some .srdFcsr
  | true, 0 => some .swrPc
  | true, 1 => some .swrNode
  | true, 2 => some .swrHart
  | true, 3 => some .swrLog
  | true, 4 => some .swrLr
  | true, 5 => some .swrFault
  | true, 6 => some .swrTime
  | true, 7 => some .swrCycle
  | true, 8 => some .swrInstret
  | true, 9 => some .swrFcsr
  | _, _ => none

/-- The command the fields of a word select (R94, R100 to R103), for a word without defects. -/
def spell (c : Cmd) : Option Instr :=
  match (fieldClass c).toNat with
  | 0 => some .nop
  | 1 => spellIreg (fieldWr c) (fieldView c).toNat (fieldIdx c)
  | 2 => spellFreg (fieldWr c) (fieldView c).toNat (fieldIdx c)
  | 3 => spellSreg (fieldWr c) (fieldIdx c).val
  | 4 => some (if fieldWr c then .frcSet else .frcTake)
  | _ => none

/-- Step 5 of R104. A word without defects always spells a command, so the second answer is never
given; it keeps the decoder from giving an unlisted word a neighbour's meaning. -/
def spelled : Option Instr → Except ErrCode Instr
  | some i => .ok i
  | none => .error .errField

/-- R104: the first test that fails decides the error; a word that passes spells a command. -/
def decode (cfg : Config) (c : Cmd) : Except ErrCode Instr :=
  if 5 ≤ (fieldClass c).toNat then .error .errClass
  else if fieldDefect c then .error .errField
  else if viewDefect cfg c then .error .errView
  else if indexDefect cfg c then .error .errIndex
  else spelled (spell c)

/-- `cmd = { class, wr, view, zero, idx }` with `zero = 0` (R93). -/
def c16 (cls : BitVec 4) (wr : Bool) (view : BitVec 3) (idx : RegIdx) : Cmd :=
  cls ++ BitVec.ofBool wr ++ view ++ 0#3 ++ BitVec.ofFin (w := 5) idx

/-- The word of a command, by the class, wr, view and idx columns of R100 to R103. -/
def encode : Instr → Cmd
  | .irdB i => c16 1 false 0 i
  | .irdH i => c16 1 false 1 i
  | .irdW i => c16 1 false 2 i
  | .irdD i => c16 1 false 3 i
  | .irdBU i => c16 1 false 4 i
  | .irdHU i => c16 1 false 5 i
  | .irdWU i => c16 1 false 6 i
  | .irdDU i => c16 1 false 7 i
  | .iwrB i => c16 1 true 0 i
  | .iwrH i => c16 1 true 1 i
  | .iwrW i => c16 1 true 2 i
  | .iwrD i => c16 1 true 3 i
  | .iwrBU i => c16 1 true 4 i
  | .iwrHU i => c16 1 true 5 i
  | .iwrWU i => c16 1 true 6 i
  | .iwrDU i => c16 1 true 7 i
  | .frdX i => c16 2 false 0 i
  | .frdXU i => c16 2 false 1 i
  | .frdS i => c16 2 false 2 i
  | .frdD i => c16 2 false 3 i
  | .fwrX i => c16 2 true 0 i
  | .fwrXU i => c16 2 true 1 i
  | .fwrS i => c16 2 true 2 i
  | .fwrD i => c16 2 true 3 i
  | .srdPc => c16 3 false 0 0
  | .swrPc => c16 3 true 0 0
  | .srdNode => c16 3 false 0 1
  | .swrNode => c16 3 true 0 1
  | .srdHart => c16 3 false 0 2
  | .swrHart => c16 3 true 0 2
  | .srdLog => c16 3 false 0 3
  | .swrLog => c16 3 true 0 3
  | .srdLr => c16 3 false 0 4
  | .swrLr => c16 3 true 0 4
  | .srdFault => c16 3 false 0 5
  | .swrFault => c16 3 true 0 5
  | .srdTime => c16 3 false 0 6
  | .swrTime => c16 3 true 0 6
  | .srdCycle => c16 3 false 0 7
  | .swrCycle => c16 3 true 0 7
  | .srdInstret => c16 3 false 0 8
  | .swrInstret => c16 3 true 0 8
  | .srdFcsr => c16 3 false 0 9
  | .swrFcsr => c16 3 true 0 9
  | .frcTake => c16 4 false 0 0
  | .frcSet => c16 4 true 0 0
  | .nop => c16 0 false 0 0

/-- One row of the opcode map: a word `c` spells it when `c &&& mask = matchBits` (30_encoding.md,
section 3); `build` gives the command from `cmd[4:0]`. -/
structure OpcodeRow where
  matchBits : Cmd
  mask      : Cmd
  build     : RegIdx → Instr

/-- The table of R100. -/
def iregRows : List OpcodeRow :=
  [ ⟨0x1000, 0xFFE0, .irdB⟩,
    ⟨0x1100, 0xFFE0, .irdH⟩,
    ⟨0x1200, 0xFFE0, .irdW⟩,
    ⟨0x1300, 0xFFE0, .irdD⟩,
    ⟨0x1400, 0xFFE0, .irdBU⟩,
    ⟨0x1500, 0xFFE0, .irdHU⟩,
    ⟨0x1600, 0xFFE0, .irdWU⟩,
    ⟨0x1700, 0xFFE0, .irdDU⟩,
    ⟨0x1800, 0xFFE0, .iwrB⟩,
    ⟨0x1900, 0xFFE0, .iwrH⟩,
    ⟨0x1A00, 0xFFE0, .iwrW⟩,
    ⟨0x1B00, 0xFFE0, .iwrD⟩,
    ⟨0x1C00, 0xFFE0, .iwrBU⟩,
    ⟨0x1D00, 0xFFE0, .iwrHU⟩,
    ⟨0x1E00, 0xFFE0, .iwrWU⟩,
    ⟨0x1F00, 0xFFE0, .iwrDU⟩ ]

/-- The table of R101. -/
def fregRows : List OpcodeRow :=
  [ ⟨0x2000, 0xFFE0, .frdX⟩,
    ⟨0x2100, 0xFFE0, .frdXU⟩,
    ⟨0x2200, 0xFFE0, .frdS⟩,
    ⟨0x2300, 0xFFE0, .frdD⟩,
    ⟨0x2800, 0xFFE0, .fwrX⟩,
    ⟨0x2900, 0xFFE0, .fwrXU⟩,
    ⟨0x2A00, 0xFFE0, .fwrS⟩,
    ⟨0x2B00, 0xFFE0, .fwrD⟩ ]

/-- The table of R102. -/
def sregRows : List OpcodeRow :=
  [ ⟨0x3000, 0xFFFF, fun _ => .srdPc⟩,
    ⟨0x3800, 0xFFFF, fun _ => .swrPc⟩,
    ⟨0x3001, 0xFFFF, fun _ => .srdNode⟩,
    ⟨0x3801, 0xFFFF, fun _ => .swrNode⟩,
    ⟨0x3002, 0xFFFF, fun _ => .srdHart⟩,
    ⟨0x3802, 0xFFFF, fun _ => .swrHart⟩,
    ⟨0x3003, 0xFFFF, fun _ => .srdLog⟩,
    ⟨0x3803, 0xFFFF, fun _ => .swrLog⟩,
    ⟨0x3004, 0xFFFF, fun _ => .srdLr⟩,
    ⟨0x3804, 0xFFFF, fun _ => .swrLr⟩,
    ⟨0x3005, 0xFFFF, fun _ => .srdFault⟩,
    ⟨0x3805, 0xFFFF, fun _ => .swrFault⟩,
    ⟨0x3006, 0xFFFF, fun _ => .srdTime⟩,
    ⟨0x3806, 0xFFFF, fun _ => .swrTime⟩,
    ⟨0x3007, 0xFFFF, fun _ => .srdCycle⟩,
    ⟨0x3807, 0xFFFF, fun _ => .swrCycle⟩,
    ⟨0x3008, 0xFFFF, fun _ => .srdInstret⟩,
    ⟨0x3808, 0xFFFF, fun _ => .swrInstret⟩,
    ⟨0x3009, 0xFFFF, fun _ => .srdFcsr⟩,
    ⟨0x3809, 0xFFFF, fun _ => .swrFcsr⟩ ]

/-- The table of R103. -/
def frcNopRows : List OpcodeRow :=
  [ ⟨0x4000, 0xFFFF, fun _ => .frcTake⟩,
    ⟨0x4800, 0xFFFF, fun _ => .frcSet⟩,
    ⟨0x0000, 0xFFFF, fun _ => .nop⟩ ]

/-- The whole opcode map (R100 to R103). -/
def opcodeRows : List OpcodeRow := iregRows ++ fregRows ++ sregRows ++ frcNopRows

/-- The command of the first row of the opcode map that the word matches, whatever the build. -/
def rowCommand (c : Cmd) : Option Instr :=
  (opcodeRows.find? fun r => c &&& r.mask == r.matchBits).map fun r => r.build (fieldIdx c)

/-- The instruction the decoder of the build of `State.reset` reads from a word numbered as
spec/opcode_table.json numbers it; none where it answers an error, or where the word is longer than
the one length there is (R111). -/
def decodeTableWord (nbits w : Nat) : Option Instr :=
  if nbits ≤ 16 then
    match decode Config.build (BitVec.ofNat 16 (w % 2 ^ nbits)) with
    | .ok i => some i
    | .error _ => none
  else none

end Sys2Proof
end

