-- ==== Sys2Proof/Machine/State.lean ====
section
/-! DEFINITION. The state: the block's thirteen elements (R49), the signals of its port (R90), and
the model's own fields (the build, and the cycles the client will still present). Plain data. -/

namespace Sys2Proof.Machine

/-- The complete state of one block (R49; R51: there is no hidden state). The fields of XLEN or
FLEN bits are `Word`s whose bits at or above that width are 0 (`Arch.wf` in Safety.lean; log 2). -/
structure Arch where
  /-- Program counter, XLEN bits (R26). -/
  pc        : Word
  /-- Integer registers, XLEN bits each; only those below `iregCount` exist (R20; log 9). -/
  ireg      : Vector Word 32
  /-- FP registers, FLEN bits each; only those below `fregCount` exist (R29; log 9). -/
  freg      : Vector Word 32
  /-- Node identifier (R33). -/
  nodeId    : BitVec 16
  /-- Hart identifier (R34). -/
  hartId    : BitVec 16
  /-- Logging-flags mask (R35 to R38); its flags are in Flags.lean. -/
  log       : BitVec 32
  /-- Load reservation, XLEN bits; all ones means none (R39, R40). -/
  lr        : Word
  /-- Fault address, XLEN bits (R42). -/
  faultAddr : Word
  /-- Fault-recovery context (R43, R44): `none`, or the one snapshot established. -/
  frc       : Option Snapshot
  /-- Wall-clock time counter (R45). -/
  time      : BitVec 64
  /-- Cycle counter (R45). -/
  cycle     : BitVec 64
  /-- Retired-instruction counter (R45). -/
  instret   : BitVec 64
  /-- Floating-point control/status value, XLEN bits, no fields (R47). -/
  fcsr      : Word
  deriving DecidableEq, Repr

/-- The input signals of one clock cycle (R90). -/
structure PortIn where
  rst      : Bool
  cmdValid : Bool
  cmd      : Cmd
  wdata    : Word
  frcIn    : Snapshot
  deriving DecidableEq, Repr

/-- The outputs of one command (R90, R99). -/
structure Response where
  rdata  : Word
  err    : ErrCode
  frcOut : Snapshot
  deriving DecidableEq, Repr

/-- The machine: one block and its port. -/
structure State where
  /-- The build; no step changes it (R50; log 1). -/
  cfg    : Config
  /-- The block's own state. -/
  arch   : Arch
  /-- The input signals of the last cycle taken (log 3). -/
  port   : PortIn
  /-- The cycles the client will still present, first next: the model's own field (log 3). -/
  client : List PortIn
  /-- The response to the last cycle's command; `none` after a cycle without a command, whose
  outputs have no meaning (R91; log 4). -/
  resp   : Option Response
  deriving DecidableEq, Repr

/-- There is no fault: "This core itself raises no errors" (R190). No constructor, so no step can
end in one; every error is a response and the block goes on (R192; logs 6, 7). -/
inductive Fault where
  deriving DecidableEq, Repr

/-- Why a step has no meaning. -/
inductive Refusal where
  /-- Raised by an arm of `exec` whose instruction has no meaning yet; safe (the model stops). No
  arm raises it now. -/
  | notModelled (mnemonic : String)
  deriving DecidableEq, Repr

/-- What a meaning answers. -/
abbrev Out := Host.Outcome State Fault Refusal

/-- The reset state of the block in a build (R49, R220, R221): all zeros, except `lr`, which is
`ones(XLEN)` (R222), and `frc`, which is `none`. -/
def Arch.reset (cfg : Config) : Arch where
  pc        := 0
  ireg      := Vector.replicate 32 0
  freg      := Vector.replicate 32 0
  nodeId    := 0
  hartId    := 0
  log       := 0
  lr        := match cfg.xlen with
    | .x32 => 0x00000000FFFFFFFF#64
    | .x64 => 0xFFFFFFFFFFFFFFFF#64
  faultAddr := 0
  frc       := none
  time      := 0
  cycle     := 0
  instret   := 0
  fcsr      := 0

/-- Signals of a cycle in which nothing is presented (log 3). -/
def PortIn.quiet : PortIn := { rst := false, cmdValid := false, cmd := 0, wdata := 0, frcIn := 0 }

/-- The machine after reset in build `cfg`, with no cycle presented yet and no response. -/
def State.resetOf (cfg : Config) : State :=
  { cfg := cfg, arch := Arch.reset cfg, port := PortIn.quiet, client := [], resp := none }

/-- The machine right after reset, in the build of log 1. -/
def State.reset : State := State.resetOf Config.build

end Sys2Proof.Machine
end

