-- ==== Sys2Proof/Machine/Flags.lean ====
section
/-! DEFINITION. The only flags of the block: the nine logging flags of `log` (R36), the all-ones
sentinel of `lr` (R40), and the error codes on `err` (R191). There are no condition codes, and no
command writes a flag as a side effect (R121, R140, R150). -/

namespace Sys2Proof.Machine

/-- The nine logging flags, in bit order (R36). -/
inductive LogFlag where
  | inst
  | operands
  | mmap
  | csrM
  | csrH
  | csrS
  | csrU
  | ireg
  | noPseudo
  deriving DecidableEq, Repr

/-- The flag's bit in `log` (R36). -/
def LogFlag.bit : LogFlag → Nat
  | .inst => 0
  | .operands => 1
  | .mmap => 2
  | .csrM => 3
  | .csrH => 4
  | .csrS => 5
  | .csrU => 6
  | .ireg => 7
  | .noPseudo => 8

/-- The flag is set. Only the external decoder and executor act on it (R35). -/
def Arch.logFlag (a : Arch) (f : LogFlag) : Bool := a.log.getLsbD f.bit

/-- A mask with exactly the listed flags set (R38: any combination is legal). -/
def LogFlag.mask (fs : List LogFlag) : BitVec 32 :=
  fs.foldr (fun f m => m ||| (1#32 <<< f.bit)) 0

/-- `ones(XLEN)`: the value of `lr` that means no reservation is held (R39, R40). -/
def noReservation : XLen → Word
  | .x32 => 0x00000000FFFFFFFF#64
  | .x64 => 0xFFFFFFFFFFFFFFFF#64

/-- A reservation is held (R40). The block itself never asks. -/
def State.reservationHeld (s : State) : Bool := s.arch.lr != noReservation s.cfg.xlen

end Sys2Proof.Machine

/-- The code on the 3-bit `err` output (R191). -/
def Sys2Proof.ErrCode.code : Sys2Proof.ErrCode → BitVec 3
  | .ok => 0
  | .errClass => 1
  | .errField => 2
  | .errView => 3
  | .errIndex => 4
  | .errNoRecovery => 5
end

