-- ==== Sys2Proof/Machine/Operands.lean ====
section
/-! DEFINITION. How a value is cut, extended and placed: the notation of R14, the two view functions
(R67, R68), the byte block behind a register (R63), and the operand forms of the commands: integer
views (R97), FP views (R98), scalar fields (R102). -/

namespace Sys2Proof.Machine

/-- `trunc_n(v)`, held in a 64-bit word: the low `n` bits (R14). -/
def truncTo (n : Nat) (v : Word) : Word := (v.setWidth n).setWidth 64

/-- `zext_64` (R14). -/
def zext64 {w : Nat} (v : BitVec w) : Word := v.setWidth 64

/-- `sext_64` (R14, R120). -/
def sext64 {w : Nat} (v : BitVec w) : Word := v.signExtend 64

/-- Signedness of a view or field: how its value is presented on `rdata` (R76, R99). -/
inductive Sign where
  | signed
  | unsigned
  deriving DecidableEq, Repr

/-- The value put on `rdata` for a view or field of `w` bits (R99, R120). -/
def present {w : Nat} : Sign → BitVec w → Word
  | .signed, v => sext64 v
  | .unsigned, v => zext64 v

/-- `view_get(R, w)` for a register of `n` bits (R67). Under `BIG` it follows 90_conflicts.md C1
(log 5). -/
def viewGet (order : ByteOrder) (n w : Nat) (r : Word) : BitVec w :=
  if w = n then r.setWidth w
  else match order with
    | .little => r.extractLsb' 0 w
    | .big => r.extractLsb' (n - w) w

/-- `view_put(R, w, v)` for a register of `n` bits (R68): the bits outside the view are kept. -/
def viewPut (order : ByteOrder) (n w : Nat) (r : Word) (v : BitVec w) : Word :=
  if w = n then v.setWidth 64
  else match order with
    | .little => (r.extractLsb' w (n - w) ++ v).setWidth 64
    | .big => (v ++ r.extractLsb' 0 (n - w)).setWidth 64

/-- Byte `s[i]` of the byte block behind a register of `n` bits (R63). No command names a byte; the
views are stated on bits, and R70 relates the two. -/
def storageByte (order : ByteOrder) (n : Nat) (r : Word) (i : Nat) : BitVec 8 :=
  match order with
  | .little => r.extractLsb' (8 * i) 8
  | .big => r.extractLsb' (n - 8 - 8 * i) 8

/-- The width part of an integer view's code (R97). -/
inductive Size where
  | byte
  | half
  | word
  | wide
  deriving DecidableEq, Repr

/-- `w = 8 << size` (R97). -/
def Size.bits : Size → Nat
  | .byte => 8
  | .half => 16
  | .word => 32
  | .wide => 64

/-- The views of an FP register (R98). -/
inductive FView where
  | raw
  | rawUnsigned
  | single
  | double
  deriving DecidableEq, Repr

/-- The width in bits of an FP view (R98). -/
def FView.bits (flen : FLen) : FView → Nat
  | .raw | .rawUnsigned => flen.bits
  | .single => 32
  | .double => 64

/-- Only the raw signed view is sign-extended; a floating-point view is its bit pattern,
zero-extended (R98, R99, R142 to R145). -/
def FView.sign : FView → Sign
  | .raw => .signed
  | .rawUnsigned | .single | .double => .unsigned

/-- The ten scalar fields, in index order (R102). -/
inductive Scalar where
  | pc
  | nodeId
  | hartId
  | log
  | lr
  | faultAddr
  | time
  | cycle
  | instret
  | fcsr
  deriving DecidableEq, Repr

/-- The scalar index (R102). -/
def Scalar.index : Scalar → Nat
  | .pc => 0
  | .nodeId => 1
  | .hartId => 2
  | .log => 3
  | .lr => 4
  | .faultAddr => 5
  | .time => 6
  | .cycle => 7
  | .instret => 8
  | .fcsr => 9

/-- The width in bits of a scalar field (R102). -/
def Scalar.bits (xlen : XLen) : Scalar → Nat
  | .pc | .lr | .faultAddr | .fcsr => xlen.bits
  | .nodeId | .hartId => 16
  | .log => 32
  | .time | .cycle | .instret => 64

/-- `lr` and `fault_addr` are of the signed type SX; the other fields are unsigned (R102, R150). -/
def Scalar.sign : Scalar → Sign
  | .lr | .faultAddr => .signed
  | .pc | .nodeId | .hartId | .log | .time | .cycle | .instret | .fcsr => .unsigned

/-- The contents of a scalar field, in the low bits of a word. -/
def Arch.scalar (a : Arch) : Scalar → Word
  | .pc => a.pc
  | .nodeId => a.nodeId.setWidth 64
  | .hartId => a.hartId.setWidth 64
  | .log => a.log.setWidth 64
  | .lr => a.lr
  | .faultAddr => a.faultAddr
  | .time => a.time
  | .cycle => a.cycle
  | .instret => a.instret
  | .fcsr => a.fcsr

/-- A scalar field receives the low bits of `v`, as many as it is wide; no other element changes
(R151). -/
def Arch.putScalar (xlen : XLen) (a : Arch) (v : Word) : Scalar → Arch
  | .pc => { a with pc := truncTo xlen.bits v }
  | .nodeId => { a with nodeId := v.setWidth 16 }
  | .hartId => { a with hartId := v.setWidth 16 }
  | .log => { a with log := v.setWidth 32 }
  | .lr => { a with lr := truncTo xlen.bits v }
  | .faultAddr => { a with faultAddr := truncTo xlen.bits v }
  | .time => { a with time := v }
  | .cycle => { a with cycle := v }
  | .instret => { a with instret := v }
  | .fcsr => { a with fcsr := truncTo xlen.bits v }

end Sys2Proof.Machine
end

