-- ==== Sys2Proof/Machine/Ops.lean ====
section
/-! DEFINITION. The shared operations: responses, register and field access, the fault-recovery
context, and what a clock cycle does around a command. The block takes no exception and has no
return from one (R190, R200, R202): what stands in their place is the error response (R192) and the
take of the recovery point (R182), each written once here. -/

namespace Sys2Proof.Machine

/-- `respond(rdata, err)` with `frc_out` (R14, R99). -/
def State.respond (s : State) (rdata : Word) (err : ErrCode) (frcOut : Snapshot) : State :=
  { s with resp := some { rdata := rdata, err := err, frcOut := frcOut } }

/-- `respond_ok(rdata)` (R14): the command was performed; `frc_out` is 0 (R99). -/
def respondOk (rdata : Word) (s : State) : Out := .next (s.respond rdata .ok 0)

/-- The error response (R192): no state changes, `rdata = 0`, `frc_out = 0`, and the block is ready
for the next command. -/
def respondErr (err : ErrCode) (s : State) : Out := .next (s.respond 0 err 0)

/-- XLEN in bits, of this build. -/
def State.xlen (s : State) : Nat := s.cfg.xlen.bits

/-- FLEN in bits, of this build. -/
def State.flen (s : State) : Nat := s.cfg.flen.bits

/-- `ireg[i] <- v` (R22: every register is plain storage, `ireg[0]` too). -/
def State.setIreg (s : State) (i : RegIdx) (v : Word) : State :=
  { s with arch := { s.arch with ireg := s.arch.ireg.set i v } }

/-- `freg[i] <- v` (R32). -/
def State.setFreg (s : State) (i : RegIdx) (v : Word) : State :=
  { s with arch := { s.arch with freg := s.arch.freg.set i v } }

/-- `frc <- v` (R43). -/
def State.setFrc (s : State) (v : Option Snapshot) : State :=
  { s with arch := { s.arch with frc := v } }

/-- The scalar field `f` receives the low bits of `v` (R151). -/
def State.setScalar (s : State) (f : Scalar) (v : Word) : State :=
  { s with arch := s.arch.putScalar s.cfg.xlen v f }

/-- What keeps an access to integer register `i` through a view of `w` bits from existing, if
anything (R96, R97, R121; the order of R193). -/
def iregDefect (s : State) (w : Nat) (i : RegIdx) : Option ErrCode :=
  if w > s.xlen then some .errView
  else if i.val ≥ s.cfg.iregCount then some .errIndex
  else none

/-- The same for FP register `i` (R96, R98, R141). -/
def fregDefect (s : State) (w : Nat) (i : RegIdx) : Option ErrCode :=
  if w > s.flen then some .errView
  else if i.val ≥ s.cfg.fregCount then some .errIndex
  else none

/-- All `IRD` commands (R121): `t <- view_get(ireg[idx], w)`, extended on `rdata`. -/
def readIreg (size : Size) (sign : Sign) (i : RegIdx) (s : State) : Out :=
  match iregDefect s size.bits i with
  | some e => respondErr e s
  | none => respondOk (present sign (viewGet s.cfg.order s.xlen size.bits s.arch.ireg[i])) s

/-- All `IWR` commands (R121): `ireg[idx] <- view_put(ireg[idx], w, trunc_w(wdata))`. The view's
signedness has no effect (R76). -/
def writeIreg (size : Size) (i : RegIdx) (s : State) : Out :=
  match iregDefect s size.bits i with
  | some e => respondErr e s
  | none => respondOk 0 (s.setIreg i
      (viewPut s.cfg.order s.xlen size.bits s.arch.ireg[i] (s.port.wdata.setWidth size.bits)))

/-- All `FRD` commands (R141): the view's bit pattern, never converted (R140). -/
def readFreg (view : FView) (i : RegIdx) (s : State) : Out :=
  match fregDefect s (view.bits s.cfg.flen) i with
  | some e => respondErr e s
  | none => respondOk
      (present view.sign (viewGet s.cfg.order s.flen (view.bits s.cfg.flen) s.arch.freg[i])) s

/-- All `FWR` commands (R141): the view's bits are stored as given; no NaN-boxing (R31). -/
def writeFreg (view : FView) (i : RegIdx) (s : State) : Out :=
  match fregDefect s (view.bits s.cfg.flen) i with
  | some e => respondErr e s
  | none => respondOk 0 (s.setFreg i
      (viewPut s.cfg.order s.flen (view.bits s.cfg.flen) s.arch.freg[i]
        (s.port.wdata.setWidth (view.bits s.cfg.flen))))

/-- All `SRD` commands (R150): the whole field, extended on `rdata`. -/
def readScalar (f : Scalar) (s : State) : Out :=
  respondOk (present f.sign ((s.arch.scalar f).setWidth (f.bits s.cfg.xlen))) s

/-- All `SWR` commands (R151). -/
def writeScalar (f : Scalar) (s : State) : Out :=
  respondOk 0 (s.setScalar f s.port.wdata)

/-- `FRC.SET` (R181): a recovery point is established; an earlier one is replaced (R44). -/
def establishRecovery (s : State) : Out := respondOk 0 (s.setFrc (some s.port.frcIn))

/-- `FRC.TAKE` (R182): the recovery point is consumed and its snapshot returned; with none
established, an error response. Nothing else changes: no `pc`, no `fault_addr`, no cause (R184;
logs 6, 7). -/
def takeRecovery (s : State) : Out :=
  match s.arch.frc with
  | none => respondErr .errNoRecovery s
  | some p => .next ((s.setFrc none).respond 0 .ok p)

/-- The next cycle's input signals are taken from the client; when it presents nothing more, the
cycle carries no command and no reset (R91; log 3). -/
def State.takeCycle (s : State) : State :=
  match s.client with
  | [] => { s with port := { s.port with rst := false, cmdValid := false } }
  | c :: rest => { s with port := c, client := rest }

/-- A cycle with `rst = 1` (R220, R226): the block is put in its reset state, whatever it was and
whatever command is presented; no response. -/
def State.afterReset (s : State) : State :=
  { s with arch := Arch.reset s.cfg, resp := none }

/-- A cycle with `rst = 0` and `cmd_valid = 0` (R91): the state does not change and the outputs
have no meaning (log 4). -/
def State.afterIdle (s : State) : State := { s with resp := none }

/-- The cycle that presents the command word `w`, the data inputs as the port last held them
(log 3). -/
def State.cycleOf (s : State) (w : Cmd) : PortIn :=
  { rst := false, cmdValid := true, cmd := w, wdata := s.port.wdata, frcIn := s.port.frcIn }

end Sys2Proof.Machine
end

