-- ==== Sys2Proof/Machine/FrcNop.lean ====
section
/-! DEFINITION. The fault-recovery commands and `NOP` (43_frc_nop.md). -/

namespace Sys2Proof.Machine

/-- `FRC.TAKE` (R182). -/
def execFrcTake (s : State) : Out := takeRecovery s

/-- `FRC.SET` (R181). -/
def execFrcSet (s : State) : Out := establishRecovery s

/-- `NOP` (R183): no operation. -/
def execNop (s : State) : Out := respondOk 0 s

end Sys2Proof.Machine
end

