-- ==== Sys2Proof/Machine/FregAccess.lean ====
section
/-! DEFINITION. The floating-point register commands `FRD` and `FWR` (41_freg_access.md). -/

namespace Sys2Proof.Machine

/-- `FRD.X` (R142): read the raw signed view of an FP register. -/
def execFrdX (idx : RegIdx) (s : State) : Out := readFreg .raw idx s

/-- `FRD.XU` (R143): read the raw unsigned view of an FP register. -/
def execFrdXU (idx : RegIdx) (s : State) : Out := readFreg .rawUnsigned idx s

/-- `FRD.S` (R144): read the single-precision view of an FP register. -/
def execFrdS (idx : RegIdx) (s : State) : Out := readFreg .single idx s

/-- `FRD.D` (R145): read the double-precision view of an FP register. -/
def execFrdD (idx : RegIdx) (s : State) : Out := readFreg .double idx s

/-- `FWR.X` (R146): write through the raw signed view of an FP register. -/
def execFwrX (idx : RegIdx) (s : State) : Out := writeFreg .raw idx s

/-- `FWR.XU` (R147): write through the raw unsigned view of an FP register. -/
def execFwrXU (idx : RegIdx) (s : State) : Out := writeFreg .rawUnsigned idx s

/-- `FWR.S` (R148): write through the single-precision view of an FP register. -/
def execFwrS (idx : RegIdx) (s : State) : Out := writeFreg .single idx s

/-- `FWR.D` (R149): write through the double-precision view of an FP register. -/
def execFwrD (idx : RegIdx) (s : State) : Out := writeFreg .double idx s

end Sys2Proof.Machine
end

