-- ==== Sys2Proof/Machine/IregAccess.lean ====
section
/-! DEFINITION. The integer register commands `IRD` and `IWR` (40_ireg_access.md). -/

namespace Sys2Proof.Machine

/-- `IRD.B` (R122): read the 8-bit signed view of an integer register. -/
def execIrdB (idx : RegIdx) (s : State) : Out := readIreg .byte .signed idx s

/-- `IRD.H` (R123): read the 16-bit signed view of an integer register. -/
def execIrdH (idx : RegIdx) (s : State) : Out := readIreg .half .signed idx s

/-- `IRD.W` (R124): read the 32-bit signed view of an integer register. -/
def execIrdW (idx : RegIdx) (s : State) : Out := readIreg .word .signed idx s

/-- `IRD.D` (R125): read the 64-bit signed view of an integer register. -/
def execIrdD (idx : RegIdx) (s : State) : Out := readIreg .wide .signed idx s

/-- `IRD.BU` (R126): read the 8-bit unsigned view of an integer register. -/
def execIrdBU (idx : RegIdx) (s : State) : Out := readIreg .byte .unsigned idx s

/-- `IRD.HU` (R127): read the 16-bit unsigned view of an integer register. -/
def execIrdHU (idx : RegIdx) (s : State) : Out := readIreg .half .unsigned idx s

/-- `IRD.WU` (R128): read the 32-bit unsigned view of an integer register. -/
def execIrdWU (idx : RegIdx) (s : State) : Out := readIreg .word .unsigned idx s

/-- `IRD.DU` (R129): read the 64-bit unsigned view of an integer register. -/
def execIrdDU (idx : RegIdx) (s : State) : Out := readIreg .wide .unsigned idx s

/-- `IWR.B` (R130): write through the 8-bit signed view of an integer register. -/
def execIwrB (idx : RegIdx) (s : State) : Out := writeIreg .byte idx s

/-- `IWR.H` (R131): write through the 16-bit signed view of an integer register. -/
def execIwrH (idx : RegIdx) (s : State) : Out := writeIreg .half idx s

/-- `IWR.W` (R132): write through the 32-bit signed view of an integer register. -/
def execIwrW (idx : RegIdx) (s : State) : Out := writeIreg .word idx s

/-- `IWR.D` (R133): write through the 64-bit signed view of an integer register. -/
def execIwrD (idx : RegIdx) (s : State) : Out := writeIreg .wide idx s

/-- `IWR.BU` (R134): write through the 8-bit unsigned view of an integer register. -/
def execIwrBU (idx : RegIdx) (s : State) : Out := writeIreg .byte idx s

/-- `IWR.HU` (R135): write through the 16-bit unsigned view of an integer register. -/
def execIwrHU (idx : RegIdx) (s : State) : Out := writeIreg .half idx s

/-- `IWR.WU` (R136): write through the 32-bit unsigned view of an integer register. -/
def execIwrWU (idx : RegIdx) (s : State) : Out := writeIreg .word idx s

/-- `IWR.DU` (R137): write through the 64-bit unsigned view of an integer register. -/
def execIwrDU (idx : RegIdx) (s : State) : Out := writeIreg .wide idx s

end Sys2Proof.Machine
end

