-- ==== Sys2Proof/Machine/SregAccess.lean ====
section
/-! DEFINITION. The scalar field commands `SRD` and `SWR` (42_sreg_access.md). -/

namespace Sys2Proof.Machine

/-- `SRD.PC` (R152). -/
def execSrdPc (s : State) : Out := readScalar .pc s

/-- `SWR.PC` (R153). -/
def execSwrPc (s : State) : Out := writeScalar .pc s

/-- `SRD.NODE` (R154). -/
def execSrdNode (s : State) : Out := readScalar .nodeId s

/-- `SWR.NODE` (R155). -/
def execSwrNode (s : State) : Out := writeScalar .nodeId s

/-- `SRD.HART` (R156). -/
def execSrdHart (s : State) : Out := readScalar .hartId s

/-- `SWR.HART` (R157). -/
def execSwrHart (s : State) : Out := writeScalar .hartId s

/-- `SRD.LOG` (R158). -/
def execSrdLog (s : State) : Out := readScalar .log s

/-- `SWR.LOG` (R159). -/
def execSwrLog (s : State) : Out := writeScalar .log s

/-- `SRD.LR` (R160). -/
def execSrdLr (s : State) : Out := readScalar .lr s

/-- `SWR.LR` (R161). -/
def execSwrLr (s : State) : Out := writeScalar .lr s

/-- `SRD.FAULT` (R162). -/
def execSrdFault (s : State) : Out := readScalar .faultAddr s

/-- `SWR.FAULT` (R163). -/
def execSwrFault (s : State) : Out := writeScalar .faultAddr s

/-- `SRD.TIME` (R164). -/
def execSrdTime (s : State) : Out := readScalar .time s

/-- `SWR.TIME` (R165). -/
def execSwrTime (s : State) : Out := writeScalar .time s

/-- `SRD.CYCLE` (R166). -/
def execSrdCycle (s : State) : Out := readScalar .cycle s

/-- `SWR.CYCLE` (R167). -/
def execSwrCycle (s : State) : Out := writeScalar .cycle s

/-- `SRD.INSTRET` (R168). -/
def execSrdInstret (s : State) : Out := readScalar .instret s

/-- `SWR.INSTRET` (R169). -/
def execSwrInstret (s : State) : Out := writeScalar .instret s

/-- `SRD.FCSR` (R170). -/
def execSrdFcsr (s : State) : Out := readScalar .fcsr s

/-- `SWR.FCSR` (R171). -/
def execSwrFcsr (s : State) : Out := writeScalar .fcsr s

end Sys2Proof.Machine
end

