-- ==== Sys2Proof/Machine/Dispatch.lean ====
section
/-! DEFINITION. One arm per command, in the order of spec/opcode_table.json. -/

namespace Sys2Proof.Machine

def exec (i : Instr) (s : State) : Host.Outcome State Fault Refusal :=
  match i with
  | .irdB idx => Sys2Proof.Machine.execIrdB idx s
  | .irdH idx => Sys2Proof.Machine.execIrdH idx s
  | .irdW idx => Sys2Proof.Machine.execIrdW idx s
  | .irdD idx => Sys2Proof.Machine.execIrdD idx s
  | .irdBU idx => Sys2Proof.Machine.execIrdBU idx s
  | .irdHU idx => Sys2Proof.Machine.execIrdHU idx s
  | .irdWU idx => Sys2Proof.Machine.execIrdWU idx s
  | .irdDU idx => Sys2Proof.Machine.execIrdDU idx s
  | .iwrB idx => Sys2Proof.Machine.execIwrB idx s
  | .iwrH idx => Sys2Proof.Machine.execIwrH idx s
  | .iwrW idx => Sys2Proof.Machine.execIwrW idx s
  | .iwrD idx => Sys2Proof.Machine.execIwrD idx s
  | .iwrBU idx => Sys2Proof.Machine.execIwrBU idx s
  | .iwrHU idx => Sys2Proof.Machine.execIwrHU idx s
  | .iwrWU idx => Sys2Proof.Machine.execIwrWU idx s
  | .iwrDU idx => Sys2Proof.Machine.execIwrDU idx s
  | .frdX idx => Sys2Proof.Machine.execFrdX idx s
  | .frdXU idx => Sys2Proof.Machine.execFrdXU idx s
  | .frdS idx => Sys2Proof.Machine.execFrdS idx s
  | .frdD idx => Sys2Proof.Machine.execFrdD idx s
  | .fwrX idx => Sys2Proof.Machine.execFwrX idx s
  | .fwrXU idx => Sys2Proof.Machine.execFwrXU idx s
  | .fwrS idx => Sys2Proof.Machine.execFwrS idx s
  | .fwrD idx => Sys2Proof.Machine.execFwrD idx s
  | .srdPc => Sys2Proof.Machine.execSrdPc s
  | .swrPc => Sys2Proof.Machine.execSwrPc s
  | .srdNode => Sys2Proof.Machine.execSrdNode s
  | .swrNode => Sys2Proof.Machine.execSwrNode s
  | .srdHart => Sys2Proof.Machine.execSrdHart s
  | .swrHart => Sys2Proof.Machine.execSwrHart s
  | .srdLog => Sys2Proof.Machine.execSrdLog s
  | .swrLog => Sys2Proof.Machine.execSwrLog s
  | .srdLr => Sys2Proof.Machine.execSrdLr s
  | .swrLr => Sys2Proof.Machine.execSwrLr s
  | .srdFault => Sys2Proof.Machine.execSrdFault s
  | .swrFault => Sys2Proof.Machine.execSwrFault s
  | .srdTime => Sys2Proof.Machine.execSrdTime s
  | .swrTime => Sys2Proof.Machine.execSwrTime s
  | .srdCycle => Sys2Proof.Machine.execSrdCycle s
  | .swrCycle => Sys2Proof.Machine.execSwrCycle s
  | .srdInstret => Sys2Proof.Machine.execSrdInstret s
  | .swrInstret => Sys2Proof.Machine.execSwrInstret s
  | .srdFcsr => Sys2Proof.Machine.execSrdFcsr s
  | .swrFcsr => Sys2Proof.Machine.execSwrFcsr s
  | .frcTake => Sys2Proof.Machine.execFrcTake s
  | .frcSet => Sys2Proof.Machine.execFrcSet s
  | .nop => Sys2Proof.Machine.execNop s

end Sys2Proof.Machine
end

