-- ==== Sys2Proof/Machine/Step.lean ====
section
/-! DEFINITION. One clock cycle (R91), and the presenting of one command word. -/

namespace Sys2Proof.Machine

/-- One clock cycle (R91): take the next input signals; `rst = 1` resets the block (R220); otherwise
a valid command word is decoded and performed, or answered with its decoding error (R104, R192);
otherwise nothing happens. -/
def step (s : State) : Host.Outcome State Fault Refusal :=
  let s := s.takeCycle
  if s.port.rst then .next s.afterReset
  else if s.port.cmdValid then
    match decode s.cfg s.port.cmd with
    | .ok i => exec i s
    | .error e => respondErr e s
  else .next s.afterIdle

/-- `s` with a client that presents the command word `w` (its low `nbits` bits) in the very next
cycle and then what it would have presented; nothing else changes (log 3). -/
def State.withFetchWord (s : State) (nbits w : Nat) : State :=
  { s with client := s.cycleOf (BitVec.ofNat 16 (w % 2 ^ nbits)) :: s.client }

end Sys2Proof.Machine
end

