-- ==== Sys2Proof/Machine/Harts.lean ====
section
/-! DEFINITION. Several harts: several independent instances of the block, each with its own port
(R80, R210 to R213). Which instance takes a cycle is an argument (log 11). -/

namespace Sys2Proof.Machine

/-- A system of harts (R210). -/
structure System where
  harts : List State
  deriving DecidableEq, Repr

/-- Hart `k` takes one clock cycle; where there is no hart `k`, nothing happens (R211, R212). -/
def System.stepHart (y : System) (k : Nat) : Host.Outcome System Fault Refusal :=
  match y.harts[k]? with
  | none => .next y
  | some s => match step s with
    | .next t => .next { harts := y.harts.set k t }
    | .fault r => .fault r
    | .refused r => .refused r

end Sys2Proof.Machine
end

