-- ==== Sys2Proof/Machine/Text.lean ====
section
/-! DEFINITION. The text syntax of commands (R108), the pseudo-commands (R109) and the pseudo-sequence
`fault` (R110). Spellings only: each line stands for one or two commands of the opcode map. -/

namespace Sys2Proof.Machine

/-- One command as the client issues it: the command and the operands that travel with it (R99).
Where the form of R108 to R110 has no such operand, `wdata` or `frcIn` is 0: DESIGN CHOICE (log 15);
the block ignores it. -/
structure Command where
  instr : Instr
  wdata : Word := 0
  frcIn : Snapshot := 0
  deriving DecidableEq, Repr

/-- The cycle that presents a command (R90, R91). -/
def Command.cycle (c : Command) : PortIn :=
  { rst := false, cmdValid := true, cmd := encode c.instr, wdata := c.wdata, frcIn := c.frcIn }

/-- The six pseudo-commands (R109) and the pseudo-sequence `fault` (R110). -/
inductive Pseudo where
  | ird (i : RegIdx)
  | iwr (i : RegIdx) (v : Word)
  | irdu (i : RegIdx)
  | frd (i : RegIdx)
  | fwr (i : RegIdx) (v : Word)
  | lrClear
  | fault (addr : Word)
  deriving DecidableEq, Repr

/-- The commands a pseudo-command stands for (R109, R110). -/
def Pseudo.expand (xlen : XLen) : Pseudo → List Command
  | .ird i => [{ instr := match xlen with | .x32 => .irdW i | .x64 => .irdD i }]
  | .iwr i v => [{ instr := match xlen with | .x32 => .iwrW i | .x64 => .iwrD i, wdata := v }]
  | .irdu i => [{ instr := match xlen with | .x32 => .irdWU i | .x64 => .irdDU i }]
  | .frd i => [{ instr := .frdXU i }]
  | .fwr i v => [{ instr := .fwrXU i, wdata := v }]
  | .lrClear => [{ instr := .swrLr, wdata := 0xFFFFFFFFFFFFFFFF#64 }]
  | .fault addr => [{ instr := .swrFault, wdata := addr }, { instr := .frcTake }]

/-- Spaces and commas separate the parts of a line (log 10). -/
def isSeparator (c : Char) : Bool := c == ' ' || c == ','

/-- The parts of a line, all of it in lower case. R108 says so of mnemonics only; that registers, the
prefix `0x` and hexadecimal digits may be in either case too is a DESIGN CHOICE (log 10). -/
def tokens (line : List Char) : List (List Char) :=
  let split := line.foldr (init := [[]]) fun c parts =>
    if isSeparator c then [] :: parts
    else match parts with
      | [] => [[c.toLower]]
      | p :: ps => (c.toLower :: p) :: ps
  split.filter fun p => !p.isEmpty

/-- A digit of base 10 or 16. -/
def digit (base : Nat) (c : Char) : Option Nat :=
  let v := if c.isDigit then c.toNat - 48 else if 'a' ≤ c ∧ c ≤ 'f' then c.toNat - 87 else base
  if v < base then some v else none

/-- A number of at least one digit in the given base. -/
def number (base : Nat) (ds : List Char) : Option Nat :=
  if ds.isEmpty then none
  else ds.foldl (init := some 0) fun acc c =>
    match acc, digit base c with
    | some n, some d => some (base * n + d)
    | _, _ => none

/-- A value: decimal, or hexadecimal after `0x` (R108), with leading zeros or without (DESIGN CHOICE,
log 10). -/
def value : List Char → Option Nat
  | '0' :: 'x' :: ds => number 16 ds
  | ds => number 10 ds

/-- A value that has a stated number of bits: 64 for data, `FRC_BITS` for a snapshot (R108). -/
def valueOf (bits : Nat) (ds : List Char) : Option Nat :=
  match value ds with
  | some n => if n < 2 ^ bits then some n else none
  | none => none

/-- `x0` to `x31`, `f0` to `f31` (R108). The number may have leading zeros: DESIGN CHOICE (log 10). -/
def register (file : Char) : List Char → Option RegIdx
  | c :: ds =>
    if c = file then
      match number 10 ds with
      | some n => if h : n < 32 then some ⟨n, h⟩ else none
      | none => none
    else none
  | [] => none

/-- The mnemonics `ird.<v>` (R108). -/
def irdNames : List (String × (RegIdx → Instr)) :=
  [ ("ird.b", .irdB), ("ird.h", .irdH), ("ird.w", .irdW), ("ird.d", .irdD),
    ("ird.bu", .irdBU), ("ird.hu", .irdHU), ("ird.wu", .irdWU), ("ird.du", .irdDU) ]

/-- The mnemonics `iwr.<v>` (R108). -/
def iwrNames : List (String × (RegIdx → Instr)) :=
  [ ("iwr.b", .iwrB), ("iwr.h", .iwrH), ("iwr.w", .iwrW), ("iwr.d", .iwrD),
    ("iwr.bu", .iwrBU), ("iwr.hu", .iwrHU), ("iwr.wu", .iwrWU), ("iwr.du", .iwrDU) ]

/-- The mnemonics `frd.<v>` (R108). -/
def frdNames : List (String × (RegIdx → Instr)) :=
  [ ("frd.x", .frdX), ("frd.xu", .frdXU), ("frd.s", .frdS), ("frd.d", .frdD) ]

/-- The mnemonics `fwr.<v>` (R108). -/
def fwrNames : List (String × (RegIdx → Instr)) :=
  [ ("fwr.x", .fwrX), ("fwr.xu", .fwrXU), ("fwr.s", .fwrS), ("fwr.d", .fwrD) ]

/-- The commands without an operand (R108). -/
def bareNames : List (String × Instr) :=
  [ ("srd.pc", .srdPc), ("srd.node", .srdNode), ("srd.hart", .srdHart), ("srd.log", .srdLog),
    ("srd.lr", .srdLr), ("srd.fault", .srdFault), ("srd.time", .srdTime), ("srd.cycle", .srdCycle),
    ("srd.instret", .srdInstret), ("srd.fcsr", .srdFcsr), ("frc.take", .frcTake), ("nop", .nop) ]

/-- The mnemonics `swr.<r>` (R108). -/
def swrNames : List (String × Instr) :=
  [ ("swr.pc", .swrPc), ("swr.node", .swrNode), ("swr.hart", .swrHart), ("swr.log", .swrLog),
    ("swr.lr", .swrLr), ("swr.fault", .swrFault), ("swr.time", .swrTime), ("swr.cycle", .swrCycle),
    ("swr.instret", .swrInstret), ("swr.fcsr", .swrFcsr) ]

/-- The entry of a table under a name. -/
def lookup {α : Type} (table : List (String × α)) (name : List Char) : Option α :=
  (table.find? fun r => r.1.toList == name).map fun r => r.2

/-- A line of one part. -/
def assemble1 (cfg : Config) (m : List Char) : Option (List Command) :=
  match lookup bareNames m with
  | some i => some [{ instr := i }]
  | none => if m = "lr.clear".toList then some (Pseudo.lrClear.expand cfg.xlen) else none

/-- A line of a name and one operand that is a register. -/
def assembleReg (cfg : Config) (m a : List Char) : Option (List Command) :=
  match lookup irdNames m, lookup frdNames m, register 'x' a, register 'f' a with
  | some f, _, some i, _ => some [{ instr := f i }]
  | _, some f, _, some i => some [{ instr := f i }]
  | _, _, some i, _ =>
    if m = "ird".toList then some ((Pseudo.ird i).expand cfg.xlen)
    else if m = "irdu".toList then some ((Pseudo.irdu i).expand cfg.xlen)
    else none
  | _, _, _, some i => if m = "frd".toList then some ((Pseudo.frd i).expand cfg.xlen) else none
  | _, _, _, _ => none

/-- A line of a name and one operand that is a value. -/
def assembleValue (cfg : Config) (m a : List Char) : Option (List Command) :=
  if m = "frc.set".toList then
    (valueOf cfg.frcBits a).map fun n => [{ instr := .frcSet, frcIn := n }]
  else match lookup swrNames m, valueOf 64 a with
    | some i, some n => some [{ instr := i, wdata := BitVec.ofNat 64 n }]
    | none, some n =>
      if m = "fault".toList then some ((Pseudo.fault (BitVec.ofNat 64 n)).expand cfg.xlen) else none
    | _, none => none

/-- A line of a name, a register and a value. -/
def assemble3 (cfg : Config) (m a v : List Char) : Option (List Command) :=
  match valueOf 64 v with
  | none => none
  | some n =>
    let d := BitVec.ofNat 64 n
    match lookup iwrNames m, lookup fwrNames m, register 'x' a, register 'f' a with
    | some f, _, some i, _ => some [{ instr := f i, wdata := d }]
    | _, some f, _, some i => some [{ instr := f i, wdata := d }]
    | _, _, some i, _ => if m = "iwr".toList then some ((Pseudo.iwr i d).expand cfg.xlen) else none
    | _, _, _, some i => if m = "fwr".toList then some ((Pseudo.fwr i d).expand cfg.xlen) else none
    | _, _, _, _ => none

/-- The commands one line of text stands for (R108 to R110); none where it is no line of the
syntax. -/
def assemble (cfg : Config) (line : String) : Option (List Command) :=
  match tokens line.toList with
  | [m] => assemble1 cfg m
  | [m, a] => match assembleReg cfg m a with
    | some cs => some cs
    | none => assembleValue cfg m a
  | [m, a, v] => assemble3 cfg m a v
  | _ => none

/-- `s` with a client that will present these commands next, then what it would have presented. -/
def State.withCommands (s : State) (cs : List Command) : State :=
  { s with client := cs.map Command.cycle ++ s.client }

end Sys2Proof.Machine
end

