-- ==== Sys2Proof/Safety.lean ====
section
/-! DEFINITION. What a well-formed state is, which cycle comes next, and the obligations the rules
lay on the client (R233 to R237; log 12): premises of statements, never checks in the block. -/

namespace Sys2Proof.Machine

/-- The value has at most `n` bits. -/
abbrev fits (n : Nat) (v : Word) : Prop := v.toNat < 2 ^ n

/-- Every element is as wide as R49 says: nothing stands above XLEN, FLEN or FRC_BITS, and registers
past the counts hold nothing (logs 2, 8, 9). -/
abbrev Arch.wf (cfg : Config) (a : Arch) : Prop :=
  fits cfg.xlen.bits a.pc
  ∧ (∀ i : RegIdx, fits cfg.xlen.bits a.ireg[i])
  ∧ (∀ i : RegIdx, cfg.iregCount ≤ i.val → a.ireg[i] = 0)
  ∧ (∀ i : RegIdx, fits cfg.flen.bits a.freg[i])
  ∧ (∀ i : RegIdx, cfg.fregCount ≤ i.val → a.freg[i] = 0)
  ∧ fits cfg.xlen.bits a.lr
  ∧ fits cfg.xlen.bits a.faultAddr
  ∧ fits cfg.xlen.bits a.fcsr
  ∧ (∀ p ∈ a.frc, p < 2 ^ cfg.frcBits)

/-- The snapshot input is `FRC_BITS` wide (R90). -/
abbrev PortIn.wf (cfg : Config) (c : PortIn) : Prop := c.frcIn < 2 ^ cfg.frcBits

/-- The snapshot output is `FRC_BITS` wide, and an error response carries no data (R90, R192). -/
abbrev Response.wf (cfg : Config) (r : Response) : Prop :=
  r.frcOut < 2 ^ cfg.frcBits ∧ (r.err ≠ .ok → r.rdata = 0 ∧ r.frcOut = 0)

/-- A state whose every part is as wide as the rules say. -/
abbrev State.wf (s : State) : Prop :=
  s.cfg.wf ∧ s.arch.wf s.cfg ∧ s.port.wf s.cfg ∧ (∀ c ∈ s.client, c.wf s.cfg)
  ∧ (∀ r ∈ s.resp, r.wf s.cfg)

/-- `s` after a command that answers `rdata`, `err` and `frc_out` and changes nothing else. -/
abbrev State.answered (s : State) (rdata : Word) (err : ErrCode) (frcOut : Snapshot) : State :=
  { s with resp := some { rdata := rdata, err := err, frcOut := frcOut } }

/-- The next cycle presents the command word `w` and no reset (R91). -/
abbrev State.presents (s : State) (w : Cmd) : Prop :=
  s.takeCycle.port.rst = false ∧ s.takeCycle.port.cmdValid = true ∧ s.takeCycle.port.cmd = w

/-- The client's obligation of R235: what it presents is a command that exists in this build. -/
abbrev State.presentsCommand (s : State) : Prop :=
  ∃ i : Instr, i.wf s.cfg = true ∧ s.presents (encode i)

/-- The client's obligation of R233, for the next cycle: it does not reset the block, and a write of
a counter is not below the value held. -/
abbrev State.keepsCounters (s : State) : Prop :=
  s.takeCycle.port.rst = false
  ∧ (s.presents (encode .swrTime) → s.arch.time.toNat ≤ s.takeCycle.port.wdata.toNat)
  ∧ (s.presents (encode .swrCycle) → s.arch.cycle.toNat ≤ s.takeCycle.port.wdata.toNat)
  ∧ (s.presents (encode .swrInstret) → s.arch.instret.toNat ≤ s.takeCycle.port.wdata.toNat)

/-- A response a client that keeps R235 can see: success, or a take with no recovery point. -/
abbrev Response.expected (r : Response) : Prop := r.err = .ok ∨ r.err = .errNoRecovery

end Sys2Proof.Machine
end

