-- ==== Sys2Proof/Certificates/Slice0/Obligations.lean ====
section
/-! DEFINITION. The statements for the provers. Where a statement rests on a choice of the model,
its docstring names the log entry. -/

open Sys2Proof Sys2Proof.Machine

/-- R122 to R125. -/
def Obligations.SignedIregReads : Prop :=
  ∀ (s : State) (i : RegIdx), i.val < s.cfg.iregCount →
    let view (w : Nat) : BitVec w := viewGet s.cfg.order s.cfg.xlen.bits w s.arch.ireg[i]
    (decode s.cfg (0x1000#16 ||| BitVec.ofNat 16 i.val) = .ok (.irdB i)
      ∧ exec (.irdB i) s = .next (s.answered ((view 8).signExtend 64) .ok 0))
    ∧ (decode s.cfg (0x1100#16 ||| BitVec.ofNat 16 i.val) = .ok (.irdH i)
      ∧ exec (.irdH i) s = .next (s.answered ((view 16).signExtend 64) .ok 0))
    ∧ (decode s.cfg (0x1200#16 ||| BitVec.ofNat 16 i.val) = .ok (.irdW i)
      ∧ exec (.irdW i) s = .next (s.answered ((view 32).signExtend 64) .ok 0))
    ∧ (s.cfg.xlen = .x64 → decode s.cfg (0x1300#16 ||| BitVec.ofNat 16 i.val) = .ok (.irdD i)
      ∧ exec (.irdD i) s = .next (s.answered ((view 64).signExtend 64) .ok 0))
    ∧ (s.cfg.xlen = .x32 → decode s.cfg (0x1300#16 ||| BitVec.ofNat 16 i.val) = .error .errView
      ∧ exec (.irdD i) s = .next (s.answered 0 .errView 0))

/-- R126 to R129. -/
def Obligations.UnsignedIregReads : Prop :=
  ∀ (s : State) (i : RegIdx), i.val < s.cfg.iregCount →
    let view (w : Nat) : BitVec w := viewGet s.cfg.order s.cfg.xlen.bits w s.arch.ireg[i]
    (decode s.cfg (0x1400#16 ||| BitVec.ofNat 16 i.val) = .ok (.irdBU i)
      ∧ exec (.irdBU i) s = .next (s.answered ((view 8).setWidth 64) .ok 0))
    ∧ (decode s.cfg (0x1500#16 ||| BitVec.ofNat 16 i.val) = .ok (.irdHU i)
      ∧ exec (.irdHU i) s = .next (s.answered ((view 16).setWidth 64) .ok 0))
    ∧ (decode s.cfg (0x1600#16 ||| BitVec.ofNat 16 i.val) = .ok (.irdWU i)
      ∧ exec (.irdWU i) s = .next (s.answered ((view 32).setWidth 64) .ok 0))
    ∧ (s.cfg.xlen = .x64 → decode s.cfg (0x1700#16 ||| BitVec.ofNat 16 i.val) = .ok (.irdDU i)
      ∧ exec (.irdDU i) s = .next (s.answered ((view 64).setWidth 64) .ok 0))
    ∧ (s.cfg.xlen = .x32 → decode s.cfg (0x1700#16 ||| BitVec.ofNat 16 i.val) = .error .errView
      ∧ exec (.irdDU i) s = .next (s.answered 0 .errView 0))

/-- R130 to R133. -/
def Obligations.SignedIregWrites : Prop :=
  ∀ (s : State) (i : RegIdx), i.val < s.cfg.iregCount →
    let written (w : Nat) : State :=
      let r := viewPut s.cfg.order s.cfg.xlen.bits w s.arch.ireg[i] (s.port.wdata.setWidth w)
      { s with arch := { s.arch with ireg := s.arch.ireg.set i r } }
    (decode s.cfg (0x1800#16 ||| BitVec.ofNat 16 i.val) = .ok (.iwrB i)
      ∧ exec (.iwrB i) s = .next ((written 8).answered 0 .ok 0))
    ∧ (decode s.cfg (0x1900#16 ||| BitVec.ofNat 16 i.val) = .ok (.iwrH i)
      ∧ exec (.iwrH i) s = .next ((written 16).answered 0 .ok 0))
    ∧ (decode s.cfg (0x1A00#16 ||| BitVec.ofNat 16 i.val) = .ok (.iwrW i)
      ∧ exec (.iwrW i) s = .next ((written 32).answered 0 .ok 0))
    ∧ (s.cfg.xlen = .x64 → decode s.cfg (0x1B00#16 ||| BitVec.ofNat 16 i.val) = .ok (.iwrD i)
      ∧ exec (.iwrD i) s = .next ((written 64).answered 0 .ok 0))
    ∧ (s.cfg.xlen = .x32 → decode s.cfg (0x1B00#16 ||| BitVec.ofNat 16 i.val) = .error .errView
      ∧ exec (.iwrD i) s = .next (s.answered 0 .errView 0))

/-- R134 to R137. -/
def Obligations.UnsignedIregWrites : Prop :=
  ∀ (s : State) (i : RegIdx), i.val < s.cfg.iregCount →
    let written (w : Nat) : State :=
      let r := viewPut s.cfg.order s.cfg.xlen.bits w s.arch.ireg[i] (s.port.wdata.setWidth w)
      { s with arch := { s.arch with ireg := s.arch.ireg.set i r } }
    (decode s.cfg (0x1C00#16 ||| BitVec.ofNat 16 i.val) = .ok (.iwrBU i)
      ∧ exec (.iwrBU i) s = .next ((written 8).answered 0 .ok 0))
    ∧ (decode s.cfg (0x1D00#16 ||| BitVec.ofNat 16 i.val) = .ok (.iwrHU i)
      ∧ exec (.iwrHU i) s = .next ((written 16).answered 0 .ok 0))
    ∧ (decode s.cfg (0x1E00#16 ||| BitVec.ofNat 16 i.val) = .ok (.iwrWU i)
      ∧ exec (.iwrWU i) s = .next ((written 32).answered 0 .ok 0))
    ∧ (s.cfg.xlen = .x64 → decode s.cfg (0x1F00#16 ||| BitVec.ofNat 16 i.val) = .ok (.iwrDU i)
      ∧ exec (.iwrDU i) s = .next ((written 64).answered 0 .ok 0))
    ∧ (s.cfg.xlen = .x32 → decode s.cfg (0x1F00#16 ||| BitVec.ofNat 16 i.val) = .error .errView
      ∧ exec (.iwrDU i) s = .next (s.answered 0 .errView 0))

/-- R142 to R145. -/
def Obligations.FregReads : Prop :=
  ∀ (s : State) (i : RegIdx), i.val < s.cfg.fregCount →
    let whole : BitVec s.cfg.flen.bits := s.arch.freg[i].setWidth s.cfg.flen.bits
    let view (w : Nat) : BitVec w := viewGet s.cfg.order s.cfg.flen.bits w s.arch.freg[i]
    (decode s.cfg (0x2000#16 ||| BitVec.ofNat 16 i.val) = .ok (.frdX i)
      ∧ exec (.frdX i) s = .next (s.answered (whole.signExtend 64) .ok 0))
    ∧ (decode s.cfg (0x2100#16 ||| BitVec.ofNat 16 i.val) = .ok (.frdXU i)
      ∧ exec (.frdXU i) s = .next (s.answered (whole.setWidth 64) .ok 0))
    ∧ (decode s.cfg (0x2200#16 ||| BitVec.ofNat 16 i.val) = .ok (.frdS i)
      ∧ exec (.frdS i) s = .next (s.answered ((view 32).setWidth 64) .ok 0))
    ∧ (s.cfg.flen = .f64 → decode s.cfg (0x2300#16 ||| BitVec.ofNat 16 i.val) = .ok (.frdD i)
      ∧ exec (.frdD i) s = .next (s.answered s.arch.freg[i] .ok 0))
    ∧ (s.cfg.flen = .f32 → decode s.cfg (0x2300#16 ||| BitVec.ofNat 16 i.val) = .error .errView
      ∧ exec (.frdD i) s = .next (s.answered 0 .errView 0))

/-- R146 to R149. -/
def Obligations.FregWrites : Prop :=
  ∀ (s : State) (i : RegIdx), i.val < s.cfg.fregCount →
    let written (v : Word) : State :=
      { s with arch := { s.arch with freg := s.arch.freg.set i v } }
    let raw : Word := (s.port.wdata.setWidth s.cfg.flen.bits).setWidth 64
    let single : Word :=
      viewPut s.cfg.order s.cfg.flen.bits 32 s.arch.freg[i] (s.port.wdata.setWidth 32)
    (decode s.cfg (0x2800#16 ||| BitVec.ofNat 16 i.val) = .ok (.fwrX i)
      ∧ exec (.fwrX i) s = .next ((written raw).answered 0 .ok 0))
    ∧ (decode s.cfg (0x2900#16 ||| BitVec.ofNat 16 i.val) = .ok (.fwrXU i)
      ∧ exec (.fwrXU i) s = .next ((written raw).answered 0 .ok 0))
    ∧ (decode s.cfg (0x2A00#16 ||| BitVec.ofNat 16 i.val) = .ok (.fwrS i)
      ∧ exec (.fwrS i) s = .next ((written single).answered 0 .ok 0))
    ∧ (s.cfg.flen = .f64 → decode s.cfg (0x2B00#16 ||| BitVec.ofNat 16 i.val) = .ok (.fwrD i)
      ∧ exec (.fwrD i) s = .next ((written s.port.wdata).answered 0 .ok 0))
    ∧ (s.cfg.flen = .f32 → decode s.cfg (0x2B00#16 ||| BitVec.ofNat 16 i.val) = .error .errView
      ∧ exec (.fwrD i) s = .next (s.answered 0 .errView 0))

/-- R152 to R170, the even numbers. -/
def Obligations.ScalarReads : Prop :=
  ∀ s : State,
    let n := s.cfg.xlen.bits
    (decode s.cfg 0x3000#16 = .ok .srdPc
      ∧ exec .srdPc s = .next (s.answered ((s.arch.pc.setWidth n).setWidth 64) .ok 0))
    ∧ (decode s.cfg 0x3001#16 = .ok .srdNode
      ∧ exec .srdNode s = .next (s.answered (s.arch.nodeId.setWidth 64) .ok 0))
    ∧ (decode s.cfg 0x3002#16 = .ok .srdHart
      ∧ exec .srdHart s = .next (s.answered (s.arch.hartId.setWidth 64) .ok 0))
    ∧ (decode s.cfg 0x3003#16 = .ok .srdLog
      ∧ exec .srdLog s = .next (s.answered (s.arch.log.setWidth 64) .ok 0))
    ∧ (decode s.cfg 0x3004#16 = .ok .srdLr
      ∧ exec .srdLr s = .next (s.answered ((s.arch.lr.setWidth n).signExtend 64) .ok 0))
    ∧ (decode s.cfg 0x3005#16 = .ok .srdFault
      ∧ exec .srdFault s = .next (s.answered ((s.arch.faultAddr.setWidth n).signExtend 64) .ok 0))
    ∧ (decode s.cfg 0x3006#16 = .ok .srdTime
      ∧ exec .srdTime s = .next (s.answered s.arch.time .ok 0))
    ∧ (decode s.cfg 0x3007#16 = .ok .srdCycle
      ∧ exec .srdCycle s = .next (s.answered s.arch.cycle .ok 0))
    ∧ (decode s.cfg 0x3008#16 = .ok .srdInstret
      ∧ exec .srdInstret s = .next (s.answered s.arch.instret .ok 0))
    ∧ (decode s.cfg 0x3009#16 = .ok .srdFcsr
      ∧ exec .srdFcsr s = .next (s.answered ((s.arch.fcsr.setWidth n).setWidth 64) .ok 0))

/-- R153 to R171, the odd numbers. -/
def Obligations.ScalarWrites : Prop :=
  ∀ s : State,
    let n := s.cfg.xlen.bits
    let native : Word := (s.port.wdata.setWidth n).setWidth 64
    let written (a : Arch) : State := State.answered { s with arch := a } 0 .ok 0
    (decode s.cfg 0x3800#16 = .ok .swrPc
      ∧ exec .swrPc s = .next (written { s.arch with pc := native }))
    ∧ (decode s.cfg 0x3801#16 = .ok .swrNode
      ∧ exec .swrNode s = .next (written { s.arch with nodeId := s.port.wdata.setWidth 16 }))
    ∧ (decode s.cfg 0x3802#16 = .ok .swrHart
      ∧ exec .swrHart s = .next (written { s.arch with hartId := s.port.wdata.setWidth 16 }))
    ∧ (decode s.cfg 0x3803#16 = .ok .swrLog
      ∧ exec .swrLog s = .next (written { s.arch with log := s.port.wdata.setWidth 32 }))
    ∧ (decode s.cfg 0x3804#16 = .ok .swrLr
      ∧ exec .swrLr s = .next (written { s.arch with lr := native }))
    ∧ (decode s.cfg 0x3805#16 = .ok .swrFault
      ∧ exec .swrFault s = .next (written { s.arch with faultAddr := native }))
    ∧ (decode s.cfg 0x3806#16 = .ok .swrTime
      ∧ exec .swrTime s = .next (written { s.arch with time := s.port.wdata }))
    ∧ (decode s.cfg 0x3807#16 = .ok .swrCycle
      ∧ exec .swrCycle s = .next (written { s.arch with cycle := s.port.wdata }))
    ∧ (decode s.cfg 0x3808#16 = .ok .swrInstret
      ∧ exec .swrInstret s = .next (written { s.arch with instret := s.port.wdata }))
    ∧ (decode s.cfg 0x3809#16 = .ok .swrFcsr
      ∧ exec .swrFcsr s = .next (written { s.arch with fcsr := native }))

/-- R181 to R183. -/
def Obligations.FrcAndNop : Prop :=
  ∀ s : State,
    (decode s.cfg 0x4800#16 = .ok .frcSet ∧ exec .frcSet s = .next (State.answered
        { s with arch := { s.arch with frc := some s.port.frcIn } } 0 .ok 0))
    ∧ decode s.cfg 0x4000#16 = .ok .frcTake
    ∧ (∀ p, s.arch.frc = some p → exec .frcTake s = .next (State.answered
        { s with arch := { s.arch with frc := none } } 0 .ok p))
    ∧ (s.arch.frc = none → exec .frcTake s = .next (s.answered 0 .errNoRecovery 0))
    ∧ (decode s.cfg 0x0000#16 = .ok .nop ∧ exec .nop s = .next (s.answered 0 .ok 0))

/-- R65, R67 with R76, on the commands: no view function of the model is named here. The `BIG`
clause is the choice of 90_conflicts.md C1 (log 5). -/
def Obligations.NarrowReadsTakeAliasedBits : Prop :=
  ∀ (s : State) (i : RegIdx) (w : Nat) (signed unsigned : Instr), i.val < s.cfg.iregCount →
    (w, signed, unsigned) ∈ [(8, Instr.irdB i, Instr.irdBU i), (16, .irdH i, .irdHU i),
      (32, .irdW i, .irdWU i)] →
    ∃ d u : Word,
      exec signed s = .next (s.answered d .ok 0)
      ∧ exec unsigned s = .next (s.answered u .ok 0)
      ∧ ∀ k < 64,
        let bit (j : Nat) : Bool := match s.cfg.order with
          | .little => s.arch.ireg[i].getLsbD j
          | .big => s.arch.ireg[i].getLsbD (s.cfg.xlen.bits - w + j)
        u.getLsbD k = (if k < w then bit k else false)
        ∧ d.getLsbD k = (if k < w then bit k else bit (w - 1))

/-- R65, R68 on the commands: no sign extension, no zeroing of the rest. The `BIG` clause is the
choice of 90_conflicts.md C1 (log 5). -/
def Obligations.NarrowWritesKeepOtherBits : Prop :=
  ∀ (s : State) (i : RegIdx) (w : Nat) (signed unsigned : Instr),
    s.wf → i.val < s.cfg.iregCount →
    (w, signed, unsigned) ∈ [(8, Instr.iwrB i, Instr.iwrBU i), (16, .iwrH i, .iwrHU i),
      (32, .iwrW i, .iwrWU i)] →
    ∃ r : Word,
      exec signed s = .next (State.answered
        { s with arch := { s.arch with ireg := s.arch.ireg.set i r } } 0 .ok 0)
      ∧ exec unsigned s = exec signed s
      ∧ ∀ k < 64, r.getLsbD k = match s.cfg.order with
        | .little => if k < w then s.port.wdata.getLsbD k else s.arch.ireg[i].getLsbD k
        | .big => if s.cfg.xlen.bits - w ≤ k ∧ k < s.cfg.xlen.bits
            then s.port.wdata.getLsbD (k - (s.cfg.xlen.bits - w)) else s.arch.ireg[i].getLsbD k

/-- R69. -/
def Obligations.ViewLaws : Prop :=
  ∀ (n : Nat) (r : Word), n ∈ [32, 64] → fits n r →
    (∀ (order : ByteOrder) (w : Nat) (v : BitVec w), w ≤ n →
      viewGet order n w (viewPut order n w r v) = v
      ∧ viewPut order n w r (viewGet order n w r) = r)
    ∧ (∀ (order : ByteOrder) (v : BitVec n), viewGet order n n (viewPut order n n r v) = v)
    ∧ (∀ w1 w2 : Nat, w1 ≤ w2 → w2 ≤ n →
      viewGet .little n w1 r = (viewGet .little n w2 r).extractLsb' 0 w1
      ∧ viewGet .big n w1 r = (viewGet .big n w2 r).extractLsb' (w2 - w1) w1)

/-- R70, over the byte block of R63 (storageByte). -/
def Obligations.ViewsAreLeadingStorageBytes : Prop :=
  ∀ (order : ByteOrder) (nb k j : Nat) (r : Word) (v : BitVec (8 * k)),
    nb ∈ [4, 8] → k ≤ nb →
    (j < k →
      storageByte order (8 * nb) r j
        = storageByte order (8 * k) ((viewGet order (8 * nb) (8 * k) r).setWidth 64) j
      ∧ storageByte order (8 * nb) (viewPut order (8 * nb) (8 * k) r v) j
        = storageByte order (8 * k) (v.setWidth 64) j)
    ∧ (k ≤ j → j < nb →
      storageByte order (8 * nb) (viewPut order (8 * nb) (8 * k) r v) j
        = storageByte order (8 * nb) r j)

/-- R232 and R22 on every integer view; R69 (a) on the commands. -/
def Obligations.WriteThenReadSameView : Prop :=
  ∀ (s : State) (i : RegIdx) (w : Nat) (write readS readU : Instr), i.val < s.cfg.iregCount →
    (w, write, readS, readU) ∈ [(8, Instr.iwrB i, Instr.irdB i, Instr.irdBU i),
      (16, .iwrH i, .irdH i, .irdHU i), (32, .iwrW i, .irdW i, .irdWU i),
      (64, .iwrD i, .irdD i, .irdDU i)] →
    w ≤ s.cfg.xlen.bits →
    ∃ t, exec write s = .next t
      ∧ exec readS t = .next (t.answered ((s.port.wdata.setWidth w).signExtend 64) .ok 0)
      ∧ exec readU t = .next (t.answered ((s.port.wdata.setWidth w).setWidth 64) .ok 0)

/-- R140, R141, R31, R66 on the commands. The `BIG` clauses are the choice of 90_conflicts.md C1
(log 5). -/
def Obligations.FpViewsReinterpretOneRegister : Prop :=
  ∀ (s : State) (i : RegIdx) (write : Instr), s.cfg.flen = .f64 → i.val < s.cfg.fregCount →
    write ∈ [Instr.fwrX i, .fwrXU i, .fwrD i] →
    (∃ t, exec write s = .next t
      ∧ (∀ read ∈ [Instr.frdX i, .frdXU i, .frdD i],
          exec read t = .next (t.answered s.port.wdata .ok 0))
      ∧ exec (.frdS i) t = .next (t.answered (match s.cfg.order with
              | .little => (s.port.wdata.extractLsb' 0 32).setWidth 64
              | .big => (s.port.wdata.extractLsb' 32 32).setWidth 64) .ok 0))
    ∧ (∃ t, exec (.fwrS i) s = .next t
      ∧ exec (.frdD i) t = .next (t.answered (match s.cfg.order with
              | .little => s.arch.freg[i].extractLsb' 32 32 ++ s.port.wdata.extractLsb' 0 32
              | .big => s.port.wdata.extractLsb' 0 32 ++ s.arch.freg[i].extractLsb' 0 32) .ok 0))

/-- Words of R100 to R103 and of the vectors V7. -/
def Obligations.DecodedWordsSanity : Prop :=
  decode Config.build 0x1305#16 = .ok (.irdD 5)
    ∧ decode Config.build 0x1805#16 = .ok (.iwrB 5)
    ∧ decode Config.build 0x2202#16 = .ok (.frdS 2)
    ∧ decode Config.build 0x2B03#16 = .ok (.fwrD 3)
    ∧ decode Config.build 0x3004#16 = .ok .srdLr
    ∧ decode Config.build 0x3809#16 = .ok .swrFcsr
    ∧ decode Config.build 0x4800#16 = .ok .frcSet
    ∧ decode Config.build 0x4000#16 = .ok .frcTake
    ∧ decode Config.build 0x0000#16 = .ok .nop
    ∧ decode Config.build 0x5FFF#16 = .error .errClass
    ∧ decode Config.build 0x23E1#16 = .error .errField
    ∧ decode Config.build 0x2401#16 = .error .errView
    ∧ decode Config.build 0x300A#16 = .error .errIndex

/-- R100 to R107: both directions of the round trip, in every build. -/
def Obligations.DecodeEncodeAgree : Prop :=
  ∀ (cfg : Config) (c : Cmd) (i : Instr),
    decode cfg c = .ok i ↔ i.wf cfg = true ∧ encode i = c

/-- The tables of R100 to R103 ("Rows are disjoint") against the decoder of R104. -/
def Obligations.FieldDecoderMatchesOpcodeMap : Prop :=
  (∀ (cfg : Config) (c : Cmd) (i : Instr),
      (decode cfg c = .ok i → rowCommand c = some i)
      ∧ (rowCommand c = some i → i.wf cfg = true → decode cfg c = .ok i))
    ∧ opcodeRows.length = 47
    ∧ opcodeRows.Pairwise fun a b => ∀ c : Cmd,
        ¬ (c &&& a.mask = a.matchBits ∧ c &&& b.mask = b.matchBits)

/-- R104 on the word as a number: no field function of the model is named here. The word 0x23E0 is
the example of R193. -/
def Obligations.DecodeErrorsInOrder : Prop :=
  (∀ (cfg : Config) (c : Cmd),
      let cls := c.toNat / 4096
      let wr := c.toNat / 2048 % 2
      let view := c.toNat / 256 % 8
      let mbz := c.toNat / 32 % 8
      let idx := c.toNat % 32
      let badField := mbz ≠ 0 ∨ (cls = 0 ∧ (wr ≠ 0 ∨ view ≠ 0 ∨ idx ≠ 0))
        ∨ (cls = 3 ∧ view ≠ 0) ∨ (cls = 4 ∧ (view ≠ 0 ∨ idx ≠ 0))
      let badView := (cls = 1 ∧ 8 * 2 ^ (view % 4) > cfg.xlen.bits) ∨ (cls = 2 ∧ view ≥ 4)
        ∨ (cls = 2 ∧ view = 3 ∧ cfg.flen = .f32)
      let badIndex := (cls = 1 ∧ idx ≥ cfg.iregCount) ∨ (cls = 2 ∧ idx ≥ cfg.fregCount)
        ∨ (cls = 3 ∧ idx ≥ 10)
      (5 ≤ cls → decode cfg c = .error .errClass)
      ∧ (cls < 5 → badField → decode cfg c = .error .errField)
      ∧ (cls < 5 → ¬ badField → badView → decode cfg c = .error .errView)
      ∧ (cls < 5 → ¬ badField → ¬ badView → badIndex → decode cfg c = .error .errIndex)
      ∧ (cls < 5 → ¬ badField → ¬ badView → ¬ badIndex →
        ∃ i, decode cfg c = .ok i ∧ rowCommand c = some i)
      ∧ decode cfg c ≠ .error .errNoRecovery)
    ∧ (∀ (s : State) (e : ErrCode), s.takeCycle.port.rst = false →
      s.takeCycle.port.cmdValid = true → decode s.cfg s.takeCycle.port.cmd = .error e →
      ∃ t, step s = .next t ∧ t.arch = s.arch
        ∧ t.resp = some { rdata := 0, err := e, frcOut := 0 })
    ∧ ∀ cfg : Config, decode cfg 0x23E0#16 = .error .errField

/-- R96, R106, R62: the decoder (R104) and the commands' own tests (R125, R145) agree. -/
def Obligations.MissingCommandsAnswerTheDecodingError : Prop :=
  ∀ (s : State) (i : Instr), i.wf s.cfg = false →
    ∃ e, decode s.cfg (encode i) = .error e
      ∧ exec i s = .next (s.answered 0 e 0)
      ∧ (e = .errView ∨ e = .errIndex)
      ∧ (e = .errView ↔
          (s.cfg.xlen = .x32 ∧ ∃ j, i ∈ [Instr.irdD j, .irdDU j, .iwrD j, .iwrDU j])
          ∨ (s.cfg.flen = .f32 ∧ ∃ j, i ∈ [Instr.frdD j, .fwrD j]))

/-- R91: the statement that carries the per-command statements to a cycle. The stream of cycles in
State is the model's choice (log 3). -/
def Obligations.StepPerformsDecodedCommand : Prop :=
  ∀ (s : State) (c : PortIn) (rest : List PortIn) (i : Instr),
    s.client = c :: rest → c.rst = false → c.cmdValid = true → decode s.cfg c.cmd = .ok i →
    step s = exec i { s with port := c, client := rest }

/-- R104, R105, R192. The stream of cycles in State is the model's choice (log 3). -/
def Obligations.StepAnswersErrorWords : Prop :=
  ∀ (s : State) (c : PortIn) (rest : List PortIn) (e : ErrCode),
    s.client = c :: rest → c.rst = false → c.cmdValid = true → decode s.cfg c.cmd = .error e →
    step s = .next (State.answered
        { s with port := c, client := rest } 0 e 0)

/-- R91, R220, R221, R226; the missing response and the end of the stream are logs 3 and 4. -/
def Obligations.ResetWinsAndIdleKeeps : Prop :=
  ∀ (s : State),
    (∀ (c : PortIn) (rest : List PortIn), s.client = c :: rest →
      (c.rst = true → step s = .next { s with
        arch := { pc := 0, ireg := Vector.replicate 32 0, freg := Vector.replicate 32 0,
                  nodeId := 0, hartId := 0, log := 0,
                  lr := BitVec.ofNat 64 (2 ^ s.cfg.xlen.bits - 1), faultAddr := 0, frc := none,
                  time := 0, cycle := 0, instret := 0, fcsr := 0 },
        port := c, client := rest, resp := none })
      ∧ (c.rst = false → c.cmdValid = false →
        step s = .next { s with port := c, client := rest, resp := none }))
    ∧ (s.client = [] → ∃ t, step s = .next t ∧ t.arch = s.arch ∧ t.client = [] ∧ t.resp = none)

/-- R221, R222, R223. -/
def Obligations.ResetValues : Prop :=
  ∀ cfg : Config,
    let s := State.resetOf cfg
    s.arch.pc = 0 ∧ (∀ i : RegIdx, s.arch.ireg[i] = 0) ∧ (∀ i : RegIdx, s.arch.freg[i] = 0)
    ∧ s.arch.nodeId = 0 ∧ s.arch.hartId = 0 ∧ s.arch.log = 0
    ∧ s.arch.lr.toNat = 2 ^ cfg.xlen.bits - 1 ∧ s.arch.faultAddr = 0 ∧ s.arch.frc = none
    ∧ s.arch.time = 0 ∧ s.arch.cycle = 0 ∧ s.arch.instret = 0 ∧ s.arch.fcsr = 0
    ∧ exec .srdLr s = .next (s.answered 0xFFFFFFFFFFFFFFFF#64 .ok 0)
    ∧ (∀ read ∈ [Instr.srdPc, .srdNode, .srdHart, .srdLog, .srdFault, .srdTime, .srdCycle,
        .srdInstret, .srdFcsr], exec read s = .next (s.answered 0 .ok 0))
    ∧ (∀ i : RegIdx, i.val < cfg.iregCount →
      ∀ read ∈ [Instr.irdB i, .irdH i, .irdW i, .irdBU i, .irdHU i, .irdWU i],
        exec read s = .next (s.answered 0 .ok 0))
    ∧ (∀ i : RegIdx, i.val < cfg.iregCount → cfg.xlen = .x64 →
      ∀ read ∈ [Instr.irdD i, .irdDU i],
        exec read s = .next (s.answered 0 .ok 0))
    ∧ (∀ i : RegIdx, i.val < cfg.fregCount → ∀ read ∈ [Instr.frdX i, .frdXU i, .frdS i],
        exec read s = .next (s.answered 0 .ok 0))
    ∧ (∀ i : RegIdx, i.val < cfg.fregCount → cfg.flen = .f64 →
        exec (.frdD i) s = .next (s.answered 0 .ok 0))

/-- The widths of R49 and R90 as an invariant of every step, not only of runs from reset (logs 2,
4, 9). -/
def Obligations.WellFormedStateIsKept : Prop :=
  ∀ s t : State, s.wf → step s = .next t → t.wf

/-- The start of WellFormedStateIsKept; `State.reset` is the build of log 1. -/
def Obligations.ResetStateIsWellFormed : Prop :=
  (∀ cfg : Config, cfg.wf → (State.resetOf cfg).wf) ∧ State.reset.wf

/-- R190, R107, R50, R191. The clause on `client` (each step takes the first cycle of the stream, a
reset cycle too, and an empty stream stays empty) is the model's choice (log 3). -/
def Obligations.EveryCycleCompletes : Prop :=
  ∀ s : State, ∃ t, step s = .next t ∧ t.cfg = s.cfg
    ∧ (s.takeCycle.port.rst = false → s.takeCycle.port.cmdValid = true →
      ∃ r, t.resp = some r ∧ r.err.code.toNat ≤ 5)
    ∧ t.client = s.client.tail

/-- R192. -/
def Obligations.ErrorsChangeNothingAndLeaveNoRecord : Prop :=
  (∀ (s t : State) (r : Response), step s = .next t → t.resp = some r → r.err ≠ .ok →
      t.arch = s.arch ∧ r.rdata = 0 ∧ r.frcOut = 0)
    ∧ ∀ (s : State) (last : Option Response), step { s with resp := last } = step s

/-- R24, R27, R28, R32, R40, R42, R46, R47, R180. -/
def Obligations.OnlyNamedCommandsChangeAnElement : Prop :=
  ∀ (i : Instr) (s t : State), exec i s = .next t →
    (i ≠ .swrPc → t.arch.pc = s.arch.pc) ∧ (i ≠ .swrNode → t.arch.nodeId = s.arch.nodeId)
    ∧ (i ≠ .swrHart → t.arch.hartId = s.arch.hartId) ∧ (i ≠ .swrLog → t.arch.log = s.arch.log)
    ∧ (i ≠ .swrLr → t.arch.lr = s.arch.lr)
    ∧ (i ≠ .swrFault → t.arch.faultAddr = s.arch.faultAddr)
    ∧ (i ≠ .swrTime → t.arch.time = s.arch.time) ∧ (i ≠ .swrCycle → t.arch.cycle = s.arch.cycle)
    ∧ (i ≠ .swrInstret → t.arch.instret = s.arch.instret)
    ∧ (i ≠ .swrFcsr → t.arch.fcsr = s.arch.fcsr)
    ∧ (i ≠ .frcSet → i ≠ .frcTake → t.arch.frc = s.arch.frc)
    ∧ (∀ j : RegIdx, i ∉ [Instr.iwrB j, .iwrH j, .iwrW j, .iwrD j, .iwrBU j, .iwrHU j, .iwrWU j,
        .iwrDU j] → t.arch.ireg[j] = s.arch.ireg[j])
    ∧ (∀ j : RegIdx, i ∉ [Instr.fwrX j, .fwrXU j, .fwrS j, .fwrD j] →
        t.arch.freg[j] = s.arch.freg[j])

/-- R75. -/
def Obligations.CommandsAreIdempotentExceptTake : Prop :=
  (∀ (i : Instr) (s t : State), i ≠ .frcTake → exec i s = .next t → exec i t = .next t)
    ∧ (∀ (i : Instr) (s t : State), exec i s = .next t → (fieldWr (encode i) = false) →
        i ≠ .frcTake → t.arch = s.arch)
    ∧ (∀ s t : State, exec .frcTake s = .next t →
        exec .frcTake t = .next (t.answered 0 .errNoRecovery 0))

/-- R35. -/
def Obligations.LoggingMaskHasNoEffect : Prop :=
  ∀ (s t : State) (m : BitVec 32) (i : Instr), i ≠ .srdLog → exec i s = .next t →
    exec i { s with arch := { s.arch with log := m } } = .next { t with
      arch := { t.arch with log := if i = .swrLog then t.arch.log else m } }

/-- R110, R198, R197, R203; the transfer writes no pc (R184, R200). The stream of cycles in State is
the model's choice (log 3), and so is the 0 on the inputs without an operand (log 15). -/
def Obligations.FaultSequenceRecordsAndTransfers : Prop :=
  ∀ (s : State) (addr : Word),
    (Pseudo.fault addr).expand s.cfg.xlen
        = [{ instr := .swrFault, wdata := addr }, { instr := .frcTake }]
    ∧ ∃ t, Host.Core.run Sys2Proof.core 2
        (s.withCommands ((Pseudo.fault addr).expand s.cfg.xlen)) = .next t
      ∧ t.arch = { s.arch with
          faultAddr := (addr.setWidth s.cfg.xlen.bits).setWidth 64, frc := none }
      ∧ t.client = s.client
      ∧ t.resp = some (match s.arch.frc with
        | some p => { rdata := 0, err := .ok, frcOut := p }
        | none => { rdata := 0, err := .errNoRecovery, frcOut := 0 })

/-- R79, R27, R46, R209, R44, over runs of every length (by induction, from every state). The
stream of cycles in State is the model's choice (log 3). -/
def Obligations.FieldKeepsItsValueBetweenWrites : Prop :=
  ∀ (cs rest : List PortIn) (s : State), s.client = cs ++ rest → (∀ c ∈ cs, c.rst = false) →
    ∃ t, Host.Core.run Sys2Proof.core cs.length s = .next t ∧ t.client = rest
      ∧ (∀ f : Scalar, (∀ c ∈ cs, c.cmd ≠ BitVec.ofNat 16 (0x3800 + f.index)) →
          t.arch.scalar f = s.arch.scalar f)
      ∧ ((∀ c ∈ cs, c.cmd ≠ 0x4000#16 ∧ c.cmd ≠ 0x4800#16) → t.arch.frc = s.arch.frc)

/-- R233, R46. -/
def Obligations.CountersNeverDecreaseUnderClientDuty : Prop :=
  ∀ s t : State, s.keepsCounters → step s = .next t →
    s.arch.time.toNat ≤ t.arch.time.toNat ∧ s.arch.cycle.toNat ≤ t.arch.cycle.toNat
    ∧ s.arch.instret.toNat ≤ t.arch.instret.toNat

/-- R235, R190. -/
def Obligations.TableClientSeesOnlyNoRecovery : Prop :=
  ∀ s : State, s.presentsCommand → ∃ t r, step s = .next t ∧ t.resp = some r
    ∧ (r.err = .ok ∨ r.err = .errNoRecovery)
    ∧ (r.err = .errNoRecovery ↔ s.takeCycle.port.cmd = 0x4000#16 ∧ s.arch.frc = none)

/-- R109. The 0 on wdata and frc_in where a pseudo-command has no such operand is the model's choice
(log 15). -/
def Obligations.NativePseudoCommandsMoveTheWholeRegister : Prop :=
  ∀ (s : State) (i : RegIdx) (v : Word),
    let x := s.cfg.xlen
    let iwhole : BitVec x.bits := s.arch.ireg[i].setWidth x.bits
    let fwhole : BitVec s.cfg.flen.bits := s.arch.freg[i].setWidth s.cfg.flen.bits
    let issued (w : Word) : State := { s with port := { s.port with wdata := w, frcIn := 0 } }
    let stored (w : Word) (a : Arch) : State := State.answered { issued w with arch := a } 0 .ok 0
    let ird : Instr := match x with | .x32 => .irdW i | .x64 => .irdD i
    let irdu : Instr := match x with | .x32 => .irdWU i | .x64 => .irdDU i
    let iwr : Instr := match x with | .x32 => .iwrW i | .x64 => .iwrD i
    ((Pseudo.ird i).expand x = [{ instr := ird }] ∧ (Pseudo.irdu i).expand x = [{ instr := irdu }]
      ∧ (Pseudo.iwr i v).expand x = [{ instr := iwr, wdata := v }]
      ∧ (Pseudo.frd i).expand x = [{ instr := .frdXU i }]
      ∧ (Pseudo.fwr i v).expand x = [{ instr := .fwrXU i, wdata := v }]
      ∧ Pseudo.lrClear.expand x = [{ instr := .swrLr, wdata := 0xFFFFFFFFFFFFFFFF#64 }])
    ∧ (i.val < s.cfg.iregCount →
      exec ird (issued 0) = .next ((issued 0).answered (iwhole.signExtend 64) .ok 0)
      ∧ exec irdu (issued 0) = .next ((issued 0).answered (iwhole.setWidth 64) .ok 0)
      ∧ exec iwr (issued v) = .next (stored v { s.arch with
          ireg := s.arch.ireg.set i ((v.setWidth x.bits).setWidth 64) }))
    ∧ (i.val < s.cfg.fregCount →
      exec (.frdXU i) (issued 0) = .next ((issued 0).answered (fwhole.setWidth 64) .ok 0)
      ∧ exec (.fwrXU i) (issued v) = .next (stored v { s.arch with
          freg := s.arch.freg.set i ((v.setWidth s.cfg.flen.bits).setWidth 64) }))
    ∧ exec .swrLr (issued 0xFFFFFFFFFFFFFFFF#64) = .next (stored 0xFFFFFFFFFFFFFFFF#64
        { s.arch with lr := BitVec.ofNat 64 (2 ^ x.bits - 1) })

/-- R37, R38, with the flags where R36 puts them (LogFlag.bit). -/
def Obligations.LoggingMaskIsThirtyTwoBitsOfStorage : Prop :=
  (∀ s : State, ∃ t, exec .swrLog s = .next t
      ∧ t.resp = some { rdata := 0, err := .ok, frcOut := 0 }
      ∧ t.arch = { s.arch with log := s.port.wdata.setWidth 32 }
      ∧ (∀ f : LogFlag, t.arch.logFlag f = s.port.wdata.getLsbD f.bit)
      ∧ exec .srdLog t = .next (t.answered ((s.port.wdata.setWidth 32).setWidth 64) .ok 0))
    ∧ (∀ (fs : List LogFlag) (a : Arch), a.log = LogFlag.mask fs →
        ∀ f : LogFlag, a.logFlag f = true ↔ f ∈ fs)
    ∧ ∀ f g : LogFlag, f.bit = g.bit → f = g

/-- R39, R40, R161: the sentinel is XLEN ones, whatever stands above them on wdata. -/
def Obligations.ReservationHeldUnlessAllOnes : Prop :=
  (∀ s : State, ∃ t, exec .swrLr s = .next t
      ∧ (t.reservationHeld = true ↔
          s.port.wdata.toNat % 2 ^ s.cfg.xlen.bits ≠ 2 ^ s.cfg.xlen.bits - 1))
    ∧ (∀ cfg : Config, (State.resetOf cfg).reservationHeld = false)
    ∧ ∀ (i : Instr) (s t : State), i ≠ .swrLr → exec i s = .next t →
        t.reservationHeld = s.reservationHeld

/-- R211, R80, R213; the composition is log 11. -/
def Obligations.HartsShareNothing : Prop :=
  ∀ (y : System) (k : Nat), ∃ z, y.stepHart k = .next z ∧ z.harts.length = y.harts.length
    ∧ (∀ j, j ≠ k → z.harts[j]? = y.harts[j]?)
    ∧ (∀ s, y.harts[k]? = some s → ∃ t, step s = .next t ∧ z.harts[k]? = some t)
end

