-- ==== Sys2Proof/Laws/Decode.lean ====
section
/-! SUPPORT. The fields of a word made by `c16`, and what the decoder answers on such a word. -/

namespace Sys2Proof

theorem c16_getLsbD (cls : BitVec 4) (wr : Bool) (view : BitVec 3) (idx : RegIdx) (i : Nat) :
    (c16 cls wr view idx).getLsbD i =
      if i < 5 then idx.val.testBit i
      else if i < 8 then false
      else if i < 11 then view.getLsbD (i - 8)
      else if i < 12 then wr
      else cls.getLsbD (i - 12) := by
  have h : (c16 cls wr view idx).getLsbD i =
      BitVec.getLsbD (w := 4 + 1 + 3 + 3 + 5)
        (cls ++ BitVec.ofBool wr ++ view ++ 0#3 ++ BitVec.ofFin (w := 5) idx) i := rfl
  rw [h]
  simp only [BitVec.getLsbD_append, BitVec.getLsbD_ofFin, BitVec.getLsbD_ofBool, BitVec.getLsbD_zero]
  rcases lt_or_ge i 5 with h5 | h5
  · simp [h5]
  rcases lt_or_ge i 8 with h8 | h8
  · have : i - 5 < 3 := by omega
    simp [h8, this, Nat.not_lt.mpr h5]
  rcases lt_or_ge i 11 with h11 | h11
  · have h1 : ¬ i - 5 < 3 := by omega
    have h2 : i - 5 - 3 < 3 := by omega
    have h3 : i - 5 - 3 = i - 8 := by omega
    have h4 : i - 8 < 3 := by omega
    simp [h11, h1, h3, h4, Nat.not_lt.mpr h5, Nat.not_lt.mpr h8]
  have h1 : ¬ i - 5 < 3 := by omega
  have h2 : ¬ i - 5 - 3 < 3 := by omega
  rcases lt_or_ge i 12 with h12 | h12
  · have h3 : i - 5 - 3 - 3 = 0 := by omega
    simp [h12, h1, h2, h3, Nat.not_lt.mpr h5, Nat.not_lt.mpr h8, Nat.not_lt.mpr h11]
  · have h3 : ¬ i - 5 - 3 - 3 < 1 := by omega
    have h4 : i - 5 - 3 - 3 - 1 = i - 12 := by omega
    simp [h1, h2, h3, h4, Nat.not_lt.mpr h5, Nat.not_lt.mpr h8, Nat.not_lt.mpr h11,
      Nat.not_lt.mpr h12]

@[simp] theorem fieldClass_c16 (cls : BitVec 4) (wr : Bool) (view : BitVec 3) (idx : RegIdx) :
    fieldClass (c16 cls wr view idx) = cls := by
  apply BitVec.eq_of_getLsbD_eq
  intro i hi
  have h1 : ¬ 12 + i < 5 := by omega
  have h2 : ¬ 12 + i < 8 := by omega
  have h3 : ¬ 12 + i < 11 := by omega
  rw [fieldClass, BitVec.getLsbD_extractLsb', c16_getLsbD]
  simp [hi, h1, h2, h3]

@[simp] theorem fieldWr_c16 (cls : BitVec 4) (wr : Bool) (view : BitVec 3) (idx : RegIdx) :
    fieldWr (c16 cls wr view idx) = wr := by
  rw [fieldWr, c16_getLsbD]
  simp

@[simp] theorem fieldView_c16 (cls : BitVec 4) (wr : Bool) (view : BitVec 3) (idx : RegIdx) :
    fieldView (c16 cls wr view idx) = view := by
  apply BitVec.eq_of_getLsbD_eq
  intro i hi
  have h1 : ¬ 8 + i < 5 := by omega
  have h2 : 8 + i < 11 := by omega
  rw [fieldView, BitVec.getLsbD_extractLsb', c16_getLsbD]
  simp [hi, h1, h2]

@[simp] theorem fieldZero_c16 (cls : BitVec 4) (wr : Bool) (view : BitVec 3) (idx : RegIdx) :
    fieldZero (c16 cls wr view idx) = 0 := by
  apply BitVec.eq_of_getLsbD_eq
  intro i hi
  have h1 : 5 + i < 8 := by omega
  rw [fieldZero, BitVec.getLsbD_extractLsb', c16_getLsbD]
  simp [hi, h1]

@[simp] theorem fieldIdx_c16 (cls : BitVec 4) (wr : Bool) (view : BitVec 3) (idx : RegIdx) :
    fieldIdx (c16 cls wr view idx) = idx := by
  have h : (c16 cls wr view idx).extractLsb' 0 5 = BitVec.ofFin (w := 5) idx := by
    apply BitVec.eq_of_getLsbD_eq
    intro i hi
    rw [BitVec.getLsbD_extractLsb', c16_getLsbD]
    simp [hi]
  rw [fieldIdx, h]

/-- R104 on a word of class IREG with `zero = 0`. -/
theorem decode_c16_ireg (cfg : Config) (wr : Bool) (view : BitVec 3) (idx : RegIdx) :
    decode cfg (c16 1 wr view idx) =
      if iviewBits view > cfg.xlen.bits then .error .errView
      else if idx.val ≥ cfg.iregCount then .error .errIndex
      else spelled (spellIreg wr view.toNat idx) := by
  simp [decode, fieldDefect, viewDefect, indexDefect, spell]

/-- R104 on a word of class FREG with `zero = 0`. -/
theorem decode_c16_freg (cfg : Config) (wr : Bool) (view : BitVec 3) (idx : RegIdx) :
    decode cfg (c16 2 wr view idx) =
      if view.toNat ≥ 4 ∨ (view = 3 ∧ cfg.flen = .f32) then .error .errView
      else if idx.val ≥ cfg.fregCount then .error .errIndex
      else spelled (spellFreg wr view.toNat idx) := by
  simp [decode, fieldDefect, viewDefect, indexDefect, spell]

/-- R104 on a word of class SREG with `view = 0` and `zero = 0`. -/
theorem decode_c16_sreg (cfg : Config) (wr : Bool) (idx : RegIdx) :
    decode cfg (c16 3 wr 0 idx) =
      if idx.val ≥ 10 then .error .errIndex
      else spelled (spellSreg wr idx.val) := by
  simp [decode, fieldDefect, viewDefect, indexDefect, spell]

/-- R104 on the words of class FRC that have no defect. -/
theorem decode_c16_frc (cfg : Config) (wr : Bool) :
    decode cfg (c16 4 wr 0 0) = .ok (if wr then .frcSet else .frcTake) := by
  cases wr <;> simp [decode, fieldDefect, viewDefect, indexDefect, spell, spelled]

/-- R104 on the word of `NOP`. -/
theorem decode_c16_nop (cfg : Config) : decode cfg (c16 0 false 0 0) = .ok .nop := by
  simp [decode, fieldDefect, viewDefect, indexDefect, spell, spelled]

theorem decode_ireg_of_wf {cfg : Config} {wr : Bool} {view : BitVec 3} {idx : RegIdx} {i : Instr}
    (hview : iviewBits view ≤ cfg.xlen.bits) (hidx : idx.val < cfg.iregCount)
    (hspell : spellIreg wr view.toNat idx = some i) : decode cfg (c16 1 wr view idx) = .ok i := by
  rw [decode_c16_ireg, if_neg (by omega), if_neg (by omega), hspell, spelled]

theorem decode_freg_of_wf {cfg : Config} {wr : Bool} {view : BitVec 3} {idx : RegIdx} {i : Instr}
    (hview : view.toNat < 4) (hdouble : view = 3 → cfg.flen = .f64) (hidx : idx.val < cfg.fregCount)
    (hspell : spellFreg wr view.toNat idx = some i) : decode cfg (c16 2 wr view idx) = .ok i := by
  have h : ¬ (view.toNat ≥ 4 ∨ (view = 3 ∧ cfg.flen = .f32)) := by
    rintro (h | ⟨h3, h32⟩)
    · omega
    · simp [hdouble h3] at h32
  rw [decode_c16_freg, if_neg h, if_neg (by omega), hspell, spelled]

end Sys2Proof
end

