-- ==== Sys2Proof/Laws/Operands.lean ====
section
/-! SUPPORT. The bits of a cut, extended, read or written value. -/

namespace Sys2Proof.Machine

theorem truncTo_getLsbD (n : Nat) (v : Word) (k : Nat) :
    (truncTo n v).getLsbD k = (decide (k < n) && v.getLsbD k) := by
  rcases lt_or_ge k 64 with h | h
  · simp [truncTo, h]
  · simp [truncTo, BitVec.getLsbD_of_ge v k h]

theorem truncTo_toNat (n : Nat) (v : Word) : (truncTo n v).toNat = v.toNat % 2 ^ n := by
  have h : v.toNat % 2 ^ n < 2 ^ 64 := lt_of_le_of_lt (Nat.mod_le _ _) v.isLt
  simpa [truncTo] using Nat.mod_eq_of_lt h

theorem truncTo_lt (n : Nat) (v : Word) : (truncTo n v).toNat < 2 ^ n := by
  rw [truncTo_toNat]
  exact Nat.mod_lt _ (Nat.two_pow_pos n)

theorem truncTo_of_lt {n : Nat} {v : Word} (h : v.toNat < 2 ^ n) : truncTo n v = v :=
  BitVec.eq_of_toNat_eq (by rw [truncTo_toNat, Nat.mod_eq_of_lt h])

theorem present_signed_getLsbD {w : Nat} (v : BitVec w) (k : Nat) (hk : k < 64) :
    (present .signed v).getLsbD k = if k < w then v.getLsbD k else v.msb := by
  simp only [present, sext64, BitVec.getLsbD_signExtend, hk, decide_true, Bool.true_and]

theorem present_unsigned_getLsbD {w : Nat} (v : BitVec w) (k : Nat) (hk : k < 64) :
    (present .unsigned v).getLsbD k = v.getLsbD k := by
  simp [present, zext64, hk]

/-- R67 under `LITTLE`, bit by bit. -/
theorem viewGet_little_getLsbD {n w : Nat} (r : Word) {k : Nat} (hk : k < w) :
    (viewGet .little n w r).getLsbD k = r.getLsbD k := by
  unfold viewGet
  split
  · simp [hk]
  · simp [hk]

/-- R67 under `BIG`, bit by bit. -/
theorem viewGet_big_getLsbD {n w : Nat} (r : Word) {k : Nat} (hk : k < w) :
    (viewGet .big n w r).getLsbD k = r.getLsbD (n - w + k) := by
  unfold viewGet
  split
  · next h =>
    subst h
    simp [hk]
  · simp [hk]

/-- R68 under `LITTLE`, bit by bit. -/
theorem viewPut_little_getLsbD {n w : Nat} (hw : w ≤ n) (hn : n ≤ 64) (r : Word) (v : BitVec w)
    (k : Nat) : (viewPut .little n w r v).getLsbD k =
      if k < w then v.getLsbD k else (decide (k < n) && r.getLsbD k) := by
  unfold viewPut
  split
  · next h =>
    subst h
    by_cases hk : k < w
    · simp [hk, lt_of_lt_of_le hk hn]
    · simp [hk, BitVec.getLsbD_of_ge v k (by omega)]
  · by_cases hk : k < w
    · simp [BitVec.getLsbD_append, hk, lt_of_lt_of_le hk (hw.trans hn)]
    · have hd : w + (k - w) = k := by omega
      by_cases hkn : k < n
      · have h1 : k - w < n - w := by omega
        simp [BitVec.getLsbD_append, hk, hkn, h1, hd,
          lt_of_lt_of_le hkn hn]
      · have h1 : ¬ k - w < n - w := by omega
        simp [BitVec.getLsbD_append, hk, hkn, h1]

/-- R68 under `BIG`, bit by bit. -/
theorem viewPut_big_getLsbD {n w : Nat} (hw : w ≤ n) (hn : n ≤ 64) (r : Word) (v : BitVec w)
    (k : Nat) : (viewPut .big n w r v).getLsbD k =
      if k < n - w then r.getLsbD k else v.getLsbD (k - (n - w)) := by
  have hv : ∀ j, w ≤ j → v.getLsbD j = false := fun j hj => BitVec.getLsbD_of_ge v j hj
  unfold viewPut
  split
  · next h =>
    subst h
    by_cases hk : k < 64
    · simp [hk]
    · simp [hk, hv k (by omega)]
  · by_cases hk : k < n - w
    · simp [BitVec.getLsbD_append, hk, show k < 64 by omega]
    · by_cases h64 : k < 64
      · simp [BitVec.getLsbD_append, hk, h64]
      · simp [hk, h64, hv (k - (n - w)) (by omega)]

/-- Whatever is written through a view that exists, the register keeps its width. -/
theorem viewPut_lt {n w : Nat} (order : ByteOrder) (hw : w ≤ n) (hn : n ≤ 64) (r : Word)
    (v : BitVec w) : (viewPut order n w r v).toNat < 2 ^ n := by
  apply Nat.lt_pow_two_of_testBit
  intro k hk
  change (viewPut order n w r v).getLsbD k = false
  cases order
  · rw [viewPut_little_getLsbD hw hn]
    simp [show ¬ k < w by omega, show ¬ k < n by omega]
  · rw [viewPut_big_getLsbD hw hn]
    simp [show ¬ k < n - w by omega, BitVec.getLsbD_of_ge v (k - (n - w)) (by omega)]

end Sys2Proof.Machine
end

