-- ==== Sys2Proof/Laws/State.lean ====
section
/-! SUPPORT. One lemma per field per update of the state, so that no proof unfolds a record update. -/

namespace Sys2Proof.Machine

@[simp] theorem respond_cfg (s : State) (d : Word) (e : ErrCode) (p : Snapshot) :
    (s.respond d e p).cfg = s.cfg := rfl

@[simp] theorem respond_arch (s : State) (d : Word) (e : ErrCode) (p : Snapshot) :
    (s.respond d e p).arch = s.arch := rfl

@[simp] theorem respond_port (s : State) (d : Word) (e : ErrCode) (p : Snapshot) :
    (s.respond d e p).port = s.port := rfl

@[simp] theorem respond_client (s : State) (d : Word) (e : ErrCode) (p : Snapshot) :
    (s.respond d e p).client = s.client := rfl

@[simp] theorem respond_resp (s : State) (d : Word) (e : ErrCode) (p : Snapshot) :
    (s.respond d e p).resp = some { rdata := d, err := e, frcOut := p } := rfl

@[simp] theorem setIreg_cfg (s : State) (i : RegIdx) (v : Word) :
    (s.setIreg i v).cfg = s.cfg := rfl

@[simp] theorem setIreg_port (s : State) (i : RegIdx) (v : Word) :
    (s.setIreg i v).port = s.port := rfl

@[simp] theorem setIreg_client (s : State) (i : RegIdx) (v : Word) :
    (s.setIreg i v).client = s.client := rfl

@[simp] theorem setIreg_resp (s : State) (i : RegIdx) (v : Word) :
    (s.setIreg i v).resp = s.resp := rfl

@[simp] theorem setIreg_arch_pc (s : State) (i : RegIdx) (v : Word) :
    (s.setIreg i v).arch.pc = s.arch.pc := rfl

@[simp] theorem setIreg_arch_ireg (s : State) (i : RegIdx) (v : Word) :
    (s.setIreg i v).arch.ireg = s.arch.ireg.set i v := rfl

@[simp] theorem setIreg_arch_freg (s : State) (i : RegIdx) (v : Word) :
    (s.setIreg i v).arch.freg = s.arch.freg := rfl

@[simp] theorem setIreg_arch_nodeId (s : State) (i : RegIdx) (v : Word) :
    (s.setIreg i v).arch.nodeId = s.arch.nodeId := rfl

@[simp] theorem setIreg_arch_hartId (s : State) (i : RegIdx) (v : Word) :
    (s.setIreg i v).arch.hartId = s.arch.hartId := rfl

@[simp] theorem setIreg_arch_log (s : State) (i : RegIdx) (v : Word) :
    (s.setIreg i v).arch.log = s.arch.log := rfl

@[simp] theorem setIreg_arch_lr (s : State) (i : RegIdx) (v : Word) :
    (s.setIreg i v).arch.lr = s.arch.lr := rfl

@[simp] theorem setIreg_arch_faultAddr (s : State) (i : RegIdx) (v : Word) :
    (s.setIreg i v).arch.faultAddr = s.arch.faultAddr := rfl

@[simp] theorem setIreg_arch_frc (s : State) (i : RegIdx) (v : Word) :
    (s.setIreg i v).arch.frc = s.arch.frc := rfl

@[simp] theorem setIreg_arch_time (s : State) (i : RegIdx) (v : Word) :
    (s.setIreg i v).arch.time = s.arch.time := rfl

@[simp] theorem setIreg_arch_cycle (s : State) (i : RegIdx) (v : Word) :
    (s.setIreg i v).arch.cycle = s.arch.cycle := rfl

@[simp] theorem setIreg_arch_instret (s : State) (i : RegIdx) (v : Word) :
    (s.setIreg i v).arch.instret = s.arch.instret := rfl

@[simp] theorem setIreg_arch_fcsr (s : State) (i : RegIdx) (v : Word) :
    (s.setIreg i v).arch.fcsr = s.arch.fcsr := rfl

@[simp] theorem setFreg_cfg (s : State) (i : RegIdx) (v : Word) :
    (s.setFreg i v).cfg = s.cfg := rfl

@[simp] theorem setFreg_port (s : State) (i : RegIdx) (v : Word) :
    (s.setFreg i v).port = s.port := rfl

@[simp] theorem setFreg_client (s : State) (i : RegIdx) (v : Word) :
    (s.setFreg i v).client = s.client := rfl

@[simp] theorem setFreg_resp (s : State) (i : RegIdx) (v : Word) :
    (s.setFreg i v).resp = s.resp := rfl

@[simp] theorem setFreg_arch_pc (s : State) (i : RegIdx) (v : Word) :
    (s.setFreg i v).arch.pc = s.arch.pc := rfl

@[simp] theorem setFreg_arch_ireg (s : State) (i : RegIdx) (v : Word) :
    (s.setFreg i v).arch.ireg = s.arch.ireg := rfl

@[simp] theorem setFreg_arch_freg (s : State) (i : RegIdx) (v : Word) :
    (s.setFreg i v).arch.freg = s.arch.freg.set i v := rfl

@[simp] theorem setFreg_arch_nodeId (s : State) (i : RegIdx) (v : Word) :
    (s.setFreg i v).arch.nodeId = s.arch.nodeId := rfl

@[simp] theorem setFreg_arch_hartId (s : State) (i : RegIdx) (v : Word) :
    (s.setFreg i v).arch.hartId = s.arch.hartId := rfl

@[simp] theorem setFreg_arch_log (s : State) (i : RegIdx) (v : Word) :
    (s.setFreg i v).arch.log = s.arch.log := rfl

@[simp] theorem setFreg_arch_lr (s : State) (i : RegIdx) (v : Word) :
    (s.setFreg i v).arch.lr = s.arch.lr := rfl

@[simp] theorem setFreg_arch_faultAddr (s : State) (i : RegIdx) (v : Word) :
    (s.setFreg i v).arch.faultAddr = s.arch.faultAddr := rfl

@[simp] theorem setFreg_arch_frc (s : State) (i : RegIdx) (v : Word) :
    (s.setFreg i v).arch.frc = s.arch.frc := rfl

@[simp] theorem setFreg_arch_time (s : State) (i : RegIdx) (v : Word) :
    (s.setFreg i v).arch.time = s.arch.time := rfl

@[simp] theorem setFreg_arch_cycle (s : State) (i : RegIdx) (v : Word) :
    (s.setFreg i v).arch.cycle = s.arch.cycle := rfl

@[simp] theorem setFreg_arch_instret (s : State) (i : RegIdx) (v : Word) :
    (s.setFreg i v).arch.instret = s.arch.instret := rfl

@[simp] theorem setFreg_arch_fcsr (s : State) (i : RegIdx) (v : Word) :
    (s.setFreg i v).arch.fcsr = s.arch.fcsr := rfl

@[simp] theorem setFrc_cfg (s : State) (v : Option Snapshot) :
    (s.setFrc v).cfg = s.cfg := rfl

@[simp] theorem setFrc_port (s : State) (v : Option Snapshot) :
    (s.setFrc v).port = s.port := rfl

@[simp] theorem setFrc_client (s : State) (v : Option Snapshot) :
    (s.setFrc v).client = s.client := rfl

@[simp] theorem setFrc_resp (s : State) (v : Option Snapshot) :
    (s.setFrc v).resp = s.resp := rfl

@[simp] theorem setFrc_arch_pc (s : State) (v : Option Snapshot) :
    (s.setFrc v).arch.pc = s.arch.pc := rfl

@[simp] theorem setFrc_arch_ireg (s : State) (v : Option Snapshot) :
    (s.setFrc v).arch.ireg = s.arch.ireg := rfl

@[simp] theorem setFrc_arch_freg (s : State) (v : Option Snapshot) :
    (s.setFrc v).arch.freg = s.arch.freg := rfl

@[simp] theorem setFrc_arch_nodeId (s : State) (v : Option Snapshot) :
    (s.setFrc v).arch.nodeId = s.arch.nodeId := rfl

@[simp] theorem setFrc_arch_hartId (s : State) (v : Option Snapshot) :
    (s.setFrc v).arch.hartId = s.arch.hartId := rfl

@[simp] theorem setFrc_arch_log (s : State) (v : Option Snapshot) :
    (s.setFrc v).arch.log = s.arch.log := rfl

@[simp] theorem setFrc_arch_lr (s : State) (v : Option Snapshot) :
    (s.setFrc v).arch.lr = s.arch.lr := rfl

@[simp] theorem setFrc_arch_faultAddr (s : State) (v : Option Snapshot) :
    (s.setFrc v).arch.faultAddr = s.arch.faultAddr := rfl

@[simp] theorem setFrc_arch_frc (s : State) (v : Option Snapshot) :
    (s.setFrc v).arch.frc = v := rfl

@[simp] theorem setFrc_arch_time (s : State) (v : Option Snapshot) :
    (s.setFrc v).arch.time = s.arch.time := rfl

@[simp] theorem setFrc_arch_cycle (s : State) (v : Option Snapshot) :
    (s.setFrc v).arch.cycle = s.arch.cycle := rfl

@[simp] theorem setFrc_arch_instret (s : State) (v : Option Snapshot) :
    (s.setFrc v).arch.instret = s.arch.instret := rfl

@[simp] theorem setFrc_arch_fcsr (s : State) (v : Option Snapshot) :
    (s.setFrc v).arch.fcsr = s.arch.fcsr := rfl

@[simp] theorem setScalar_cfg (s : State) (f : Scalar) (v : Word) :
    (s.setScalar f v).cfg = s.cfg := rfl

@[simp] theorem setScalar_port (s : State) (f : Scalar) (v : Word) :
    (s.setScalar f v).port = s.port := rfl

@[simp] theorem setScalar_client (s : State) (f : Scalar) (v : Word) :
    (s.setScalar f v).client = s.client := rfl

@[simp] theorem setScalar_resp (s : State) (f : Scalar) (v : Word) :
    (s.setScalar f v).resp = s.resp := rfl

@[simp] theorem setScalar_arch (s : State) (f : Scalar) (v : Word) :
    (s.setScalar f v).arch = s.arch.putScalar s.cfg.xlen v f := rfl

@[simp] theorem putScalar_pc (x : XLen) (a : Arch) (v : Word) (f : Scalar) :
    (a.putScalar x v f).pc = if f = .pc then truncTo x.bits v else a.pc := by
  cases f <;> rfl

@[simp] theorem putScalar_ireg (x : XLen) (a : Arch) (v : Word) (f : Scalar) :
    (a.putScalar x v f).ireg = a.ireg := by
  cases f <;> rfl

@[simp] theorem putScalar_freg (x : XLen) (a : Arch) (v : Word) (f : Scalar) :
    (a.putScalar x v f).freg = a.freg := by
  cases f <;> rfl

@[simp] theorem putScalar_nodeId (x : XLen) (a : Arch) (v : Word) (f : Scalar) :
    (a.putScalar x v f).nodeId = if f = .nodeId then v.setWidth 16 else a.nodeId := by
  cases f <;> rfl

@[simp] theorem putScalar_hartId (x : XLen) (a : Arch) (v : Word) (f : Scalar) :
    (a.putScalar x v f).hartId = if f = .hartId then v.setWidth 16 else a.hartId := by
  cases f <;> rfl

@[simp] theorem putScalar_log (x : XLen) (a : Arch) (v : Word) (f : Scalar) :
    (a.putScalar x v f).log = if f = .log then v.setWidth 32 else a.log := by
  cases f <;> rfl

@[simp] theorem putScalar_lr (x : XLen) (a : Arch) (v : Word) (f : Scalar) :
    (a.putScalar x v f).lr = if f = .lr then truncTo x.bits v else a.lr := by
  cases f <;> rfl

@[simp] theorem putScalar_faultAddr (x : XLen) (a : Arch) (v : Word) (f : Scalar) :
    (a.putScalar x v f).faultAddr = if f = .faultAddr then truncTo x.bits v else a.faultAddr := by
  cases f <;> rfl

@[simp] theorem putScalar_frc (x : XLen) (a : Arch) (v : Word) (f : Scalar) :
    (a.putScalar x v f).frc = a.frc := by
  cases f <;> rfl

@[simp] theorem putScalar_time (x : XLen) (a : Arch) (v : Word) (f : Scalar) :
    (a.putScalar x v f).time = if f = .time then v else a.time := by
  cases f <;> rfl

@[simp] theorem putScalar_cycle (x : XLen) (a : Arch) (v : Word) (f : Scalar) :
    (a.putScalar x v f).cycle = if f = .cycle then v else a.cycle := by
  cases f <;> rfl

@[simp] theorem putScalar_instret (x : XLen) (a : Arch) (v : Word) (f : Scalar) :
    (a.putScalar x v f).instret = if f = .instret then v else a.instret := by
  cases f <;> rfl

@[simp] theorem putScalar_fcsr (x : XLen) (a : Arch) (v : Word) (f : Scalar) :
    (a.putScalar x v f).fcsr = if f = .fcsr then truncTo x.bits v else a.fcsr := by
  cases f <;> rfl

@[simp] theorem takeCycle_cfg (s : State) :
    s.takeCycle.cfg = s.cfg := by
  unfold State.takeCycle
  split <;> rfl

@[simp] theorem takeCycle_arch (s : State) :
    s.takeCycle.arch = s.arch := by
  unfold State.takeCycle
  split <;> rfl

@[simp] theorem takeCycle_resp (s : State) :
    s.takeCycle.resp = s.resp := by
  unfold State.takeCycle
  split <;> rfl

@[simp] theorem afterReset_arch (s : State) :
    s.afterReset.arch = Arch.reset s.cfg := rfl

@[simp] theorem afterReset_resp (s : State) :
    s.afterReset.resp = none := rfl

@[simp] theorem afterReset_cfg (s : State) :
    s.afterReset.cfg = s.cfg := rfl

@[simp] theorem afterReset_port (s : State) :
    s.afterReset.port = s.port := rfl

@[simp] theorem afterReset_client (s : State) :
    s.afterReset.client = s.client := rfl

@[simp] theorem afterIdle_resp (s : State) :
    s.afterIdle.resp = none := rfl

@[simp] theorem afterIdle_cfg (s : State) :
    s.afterIdle.cfg = s.cfg := rfl

@[simp] theorem afterIdle_arch (s : State) :
    s.afterIdle.arch = s.arch := rfl

@[simp] theorem afterIdle_port (s : State) :
    s.afterIdle.port = s.port := rfl

@[simp] theorem afterIdle_client (s : State) :
    s.afterIdle.client = s.client := rfl

end Sys2Proof.Machine
end

