-- ==== Sys2Proof/Laws/Ops.lean ====
section
/-! SUPPORT. What each shared operation answers: its result where the access exists, its error
response where it does not, and all it can do. -/

namespace Sys2Proof.Machine

theorem respondOk_eq (d : Word) (s : State) : respondOk d s = .next (s.respond d .ok 0) := rfl

theorem respondErr_eq (e : ErrCode) (s : State) : respondErr e s = .next (s.respond 0 e 0) := rfl

theorem iregDefect_eq_none {s : State} {w : Nat} {i : RegIdx} :
    iregDefect s w i = none ↔ w ≤ s.xlen ∧ i.val < s.cfg.iregCount := by
  unfold iregDefect
  split
  · simp; omega
  · split
    · simp; omega
    · simp; omega

theorem fregDefect_eq_none {s : State} {w : Nat} {i : RegIdx} :
    fregDefect s w i = none ↔ w ≤ s.flen ∧ i.val < s.cfg.fregCount := by
  unfold fregDefect
  split
  · simp; omega
  · split
    · simp; omega
    · simp; omega

theorem readIreg_of_exists {size : Size} {i : RegIdx} {s : State} (sign : Sign)
    (hw : size.bits ≤ s.xlen) (hi : i.val < s.cfg.iregCount) :
    readIreg size sign i s = .next (s.respond
      (present sign (viewGet s.cfg.order s.xlen size.bits s.arch.ireg[i])) .ok 0) := by
  rw [readIreg, iregDefect_eq_none.mpr ⟨hw, hi⟩, respondOk_eq]

theorem writeIreg_of_exists {size : Size} {i : RegIdx} {s : State}
    (hw : size.bits ≤ s.xlen) (hi : i.val < s.cfg.iregCount) :
    writeIreg size i s = .next ((s.setIreg i (viewPut s.cfg.order s.xlen size.bits s.arch.ireg[i]
      (s.port.wdata.setWidth size.bits))).respond 0 .ok 0) := by
  rw [writeIreg, iregDefect_eq_none.mpr ⟨hw, hi⟩, respondOk_eq]

theorem readFreg_of_exists {view : FView} {i : RegIdx} {s : State}
    (hw : view.bits s.cfg.flen ≤ s.flen) (hi : i.val < s.cfg.fregCount) :
    readFreg view i s = .next (s.respond (present view.sign
      (viewGet s.cfg.order s.flen (view.bits s.cfg.flen) s.arch.freg[i])) .ok 0) := by
  rw [readFreg, fregDefect_eq_none.mpr ⟨hw, hi⟩, respondOk_eq]

theorem writeFreg_of_exists {view : FView} {i : RegIdx} {s : State}
    (hw : view.bits s.cfg.flen ≤ s.flen) (hi : i.val < s.cfg.fregCount) :
    writeFreg view i s = .next ((s.setFreg i (viewPut s.cfg.order s.flen (view.bits s.cfg.flen)
      s.arch.freg[i] (s.port.wdata.setWidth (view.bits s.cfg.flen)))).respond 0 .ok 0) := by
  rw [writeFreg, fregDefect_eq_none.mpr ⟨hw, hi⟩, respondOk_eq]

theorem readScalar_eq (f : Scalar) (s : State) : readScalar f s =
    .next (s.respond (present f.sign ((s.arch.scalar f).setWidth (f.bits s.cfg.xlen))) .ok 0) := rfl

theorem writeScalar_eq (f : Scalar) (s : State) : writeScalar f s =
    .next ((s.setScalar f s.port.wdata).respond 0 .ok 0) := rfl

theorem establishRecovery_eq (s : State) : establishRecovery s =
    .next ((s.setFrc (some s.port.frcIn)).respond 0 .ok 0) := rfl

theorem takeRecovery_none {s : State} (h : s.arch.frc = none) :
    takeRecovery s = .next (s.respond 0 .errNoRecovery 0) := by
  rw [takeRecovery, h, respondErr_eq]

theorem takeRecovery_some {s : State} {p : Snapshot} (h : s.arch.frc = some p) :
    takeRecovery s = .next ((s.setFrc none).respond 0 .ok p) := by
  rw [takeRecovery, h]

theorem takeCycle_nil {s : State} (h : s.client = []) : s.takeCycle =
    { s with port := { s.port with rst := false, cmdValid := false } } := by
  rw [State.takeCycle, h]

theorem takeCycle_cons {s : State} {c : PortIn} {rest : List PortIn} (h : s.client = c :: rest) :
    s.takeCycle = { s with port := c, client := rest } := by
  rw [State.takeCycle, h]

/-- All a command can do, as a property of its answer: it always completes, and either only responds
(an error response carries no data), or writes one integer register, one FP register, one scalar
field or the recovery context as the rules say, and then reports success. -/
inductive Answers (s : State) : Out → Prop where
  | responds (d : Word) (e : ErrCode) (h : e ≠ .ok → d = 0) : Answers s (.next (s.respond d e 0))
  | writesIreg (size : Size) (i : RegIdx) (hw : size.bits ≤ s.xlen) (hi : i.val < s.cfg.iregCount) :
      Answers s (.next ((s.setIreg i (viewPut s.cfg.order s.xlen size.bits s.arch.ireg[i]
        (s.port.wdata.setWidth size.bits))).respond 0 .ok 0))
  | writesFreg (view : FView) (i : RegIdx) (hw : view.bits s.cfg.flen ≤ s.flen)
      (hi : i.val < s.cfg.fregCount) :
      Answers s (.next ((s.setFreg i (viewPut s.cfg.order s.flen (view.bits s.cfg.flen)
        s.arch.freg[i] (s.port.wdata.setWidth (view.bits s.cfg.flen)))).respond 0 .ok 0))
  | writesScalar (f : Scalar) : Answers s (.next ((s.setScalar f s.port.wdata).respond 0 .ok 0))
  | establishes : Answers s (.next ((s.setFrc (some s.port.frcIn)).respond 0 .ok 0))
  | consumes (p : Snapshot) (h : s.arch.frc = some p) :
      Answers s (.next ((s.setFrc none).respond 0 .ok p))

theorem Answers.ok (s : State) (d : Word) : Answers s (respondOk d s) :=
  .responds d .ok fun h => absurd rfl h

theorem Answers.err (s : State) (e : ErrCode) : Answers s (respondErr e s) :=
  .responds 0 e fun _ => rfl

theorem readIreg_answers (size : Size) (sign : Sign) (i : RegIdx) (s : State) :
    Answers s (readIreg size sign i s) := by
  unfold readIreg
  split
  · exact .err s _
  · exact .ok s _

theorem writeIreg_answers (size : Size) (i : RegIdx) (s : State) :
    Answers s (writeIreg size i s) := by
  unfold writeIreg
  split
  · exact .err s _
  · next h =>
    have hx := iregDefect_eq_none.mp h
    exact .writesIreg size i hx.1 hx.2

theorem readFreg_answers (view : FView) (i : RegIdx) (s : State) :
    Answers s (readFreg view i s) := by
  unfold readFreg
  split
  · exact .err s _
  · exact .ok s _

theorem writeFreg_answers (view : FView) (i : RegIdx) (s : State) :
    Answers s (writeFreg view i s) := by
  unfold writeFreg
  split
  · exact .err s _
  · next h =>
    have hx := fregDefect_eq_none.mp h
    exact .writesFreg view i hx.1 hx.2

theorem takeRecovery_answers (s : State) : Answers s (takeRecovery s) := by
  cases h : s.arch.frc with
  | none => rw [takeRecovery_none h]; exact .err s _
  | some p => rw [takeRecovery_some h]; exact .consumes p h

/-- What holds of the signals held and of every cycle to come still holds after one is taken. -/
theorem takeCycle_port_wf {s : State} {P : PortIn → Prop} (hport : P s.port)
    (hquiet : ∀ c, P c → P { c with rst := false, cmdValid := false })
    (hclient : ∀ c ∈ s.client, P c) :
    P s.takeCycle.port ∧ ∀ c ∈ s.takeCycle.client, P c := by
  cases hc : s.client with
  | nil => rw [takeCycle_nil hc]; exact ⟨hquiet _ hport, by simp [hc]⟩
  | cons c rest =>
    rw [takeCycle_cons hc]
    exact ⟨hclient c (by simp [hc]), fun c' h => hclient c' (by simp [hc, h])⟩

end Sys2Proof.Machine
end

