-- ==== Sys2Proof/Laws/PerInstr.lean ====
section
/-! SUPPORT. Statements about every command as syntax, made per command. -/

namespace Sys2Proof.Laws.RoundTrip

/-- In every build the command exists in, the decoder reads it back from its own word. -/
def Statement (i : Instr) : Prop :=
  ∀ cfg : Config, i.wf cfg = true → decode cfg (encode i) = .ok i

theorem iview_narrow {view : BitVec 3} (cfg : Config) (h : decide (iviewBits view ≤ 32) = true) :
    iviewBits view ≤ cfg.xlen.bits := by
  have h := of_decide_eq_true h
  cases hx : cfg.xlen <;> simp [XLen.bits] <;> omega

theorem iview_wide {view : BitVec 3} {cfg : Config} {b : Bool}
    (h : (cfg.hasWideIreg && b) = true) : iviewBits view ≤ cfg.xlen.bits := by
  have hx : cfg.xlen = .x64 := by simpa [Config.hasWideIreg] using (Bool.and_eq_true_iff.mp h).1
  have hv : ∀ v : BitVec 3, iviewBits v ≤ 64 := by decide
  simpa [hx, XLen.bits] using hv view

theorem hasIreg_lt {cfg : Config} {idx : RegIdx} (h : cfg.hasIreg idx = true) :
    idx.val < cfg.iregCount := of_decide_eq_true h

theorem hasFreg_lt {cfg : Config} {idx : RegIdx} (h : cfg.hasFreg idx = true) :
    idx.val < cfg.fregCount := of_decide_eq_true h

theorem flen_of_wf {cfg : Config} {b : Bool} (h : (cfg.hasDouble && b) = true) :
    cfg.flen = .f64 := by simpa [Config.hasDouble] using (Bool.and_eq_true_iff.mp h).1

theorem irdB (idx : RegIdx) : Statement (.irdB idx) := fun cfg h =>
  decode_ireg_of_wf (iview_narrow cfg rfl) (hasIreg_lt h) rfl

theorem irdH (idx : RegIdx) : Statement (.irdH idx) := fun cfg h =>
  decode_ireg_of_wf (iview_narrow cfg rfl) (hasIreg_lt h) rfl

theorem irdW (idx : RegIdx) : Statement (.irdW idx) := fun cfg h =>
  decode_ireg_of_wf (iview_narrow cfg rfl) (hasIreg_lt h) rfl

theorem irdD (idx : RegIdx) : Statement (.irdD idx) := fun _ h =>
  decode_ireg_of_wf (iview_wide h) (hasIreg_lt (Bool.and_eq_true_iff.mp h).2) rfl

theorem irdBU (idx : RegIdx) : Statement (.irdBU idx) := fun cfg h =>
  decode_ireg_of_wf (iview_narrow cfg rfl) (hasIreg_lt h) rfl

theorem irdHU (idx : RegIdx) : Statement (.irdHU idx) := fun cfg h =>
  decode_ireg_of_wf (iview_narrow cfg rfl) (hasIreg_lt h) rfl

theorem irdWU (idx : RegIdx) : Statement (.irdWU idx) := fun cfg h =>
  decode_ireg_of_wf (iview_narrow cfg rfl) (hasIreg_lt h) rfl

theorem irdDU (idx : RegIdx) : Statement (.irdDU idx) := fun _ h =>
  decode_ireg_of_wf (iview_wide h) (hasIreg_lt (Bool.and_eq_true_iff.mp h).2) rfl

theorem iwrB (idx : RegIdx) : Statement (.iwrB idx) := fun cfg h =>
  decode_ireg_of_wf (iview_narrow cfg rfl) (hasIreg_lt h) rfl

theorem iwrH (idx : RegIdx) : Statement (.iwrH idx) := fun cfg h =>
  decode_ireg_of_wf (iview_narrow cfg rfl) (hasIreg_lt h) rfl

theorem iwrW (idx : RegIdx) : Statement (.iwrW idx) := fun cfg h =>
  decode_ireg_of_wf (iview_narrow cfg rfl) (hasIreg_lt h) rfl

theorem iwrD (idx : RegIdx) : Statement (.iwrD idx) := fun _ h =>
  decode_ireg_of_wf (iview_wide h) (hasIreg_lt (Bool.and_eq_true_iff.mp h).2) rfl

theorem iwrBU (idx : RegIdx) : Statement (.iwrBU idx) := fun cfg h =>
  decode_ireg_of_wf (iview_narrow cfg rfl) (hasIreg_lt h) rfl

theorem iwrHU (idx : RegIdx) : Statement (.iwrHU idx) := fun cfg h =>
  decode_ireg_of_wf (iview_narrow cfg rfl) (hasIreg_lt h) rfl

theorem iwrWU (idx : RegIdx) : Statement (.iwrWU idx) := fun cfg h =>
  decode_ireg_of_wf (iview_narrow cfg rfl) (hasIreg_lt h) rfl

theorem iwrDU (idx : RegIdx) : Statement (.iwrDU idx) := fun _ h =>
  decode_ireg_of_wf (iview_wide h) (hasIreg_lt (Bool.and_eq_true_iff.mp h).2) rfl

theorem frdX (idx : RegIdx) : Statement (.frdX idx) := fun _ h =>
  decode_freg_of_wf (by decide) (fun h3 => absurd h3 (by decide)) (hasFreg_lt h) rfl

theorem frdXU (idx : RegIdx) : Statement (.frdXU idx) := fun _ h =>
  decode_freg_of_wf (by decide) (fun h3 => absurd h3 (by decide)) (hasFreg_lt h) rfl

theorem frdS (idx : RegIdx) : Statement (.frdS idx) := fun _ h =>
  decode_freg_of_wf (by decide) (fun h3 => absurd h3 (by decide)) (hasFreg_lt h) rfl

theorem frdD (idx : RegIdx) : Statement (.frdD idx) := fun _ h =>
  decode_freg_of_wf (by decide) (fun _ => flen_of_wf h) (hasFreg_lt (Bool.and_eq_true_iff.mp h).2) rfl

theorem fwrX (idx : RegIdx) : Statement (.fwrX idx) := fun _ h =>
  decode_freg_of_wf (by decide) (fun h3 => absurd h3 (by decide)) (hasFreg_lt h) rfl

theorem fwrXU (idx : RegIdx) : Statement (.fwrXU idx) := fun _ h =>
  decode_freg_of_wf (by decide) (fun h3 => absurd h3 (by decide)) (hasFreg_lt h) rfl

theorem fwrS (idx : RegIdx) : Statement (.fwrS idx) := fun _ h =>
  decode_freg_of_wf (by decide) (fun h3 => absurd h3 (by decide)) (hasFreg_lt h) rfl

theorem fwrD (idx : RegIdx) : Statement (.fwrD idx) := fun _ h =>
  decode_freg_of_wf (by decide) (fun _ => flen_of_wf h) (hasFreg_lt (Bool.and_eq_true_iff.mp h).2) rfl

theorem srdPc : Statement .srdPc := fun cfg _ => decode_c16_sreg cfg _ _

theorem swrPc : Statement .swrPc := fun cfg _ => decode_c16_sreg cfg _ _

theorem srdNode : Statement .srdNode := fun cfg _ => decode_c16_sreg cfg _ _

theorem swrNode : Statement .swrNode := fun cfg _ => decode_c16_sreg cfg _ _

theorem srdHart : Statement .srdHart := fun cfg _ => decode_c16_sreg cfg _ _

theorem swrHart : Statement .swrHart := fun cfg _ => decode_c16_sreg cfg _ _

theorem srdLog : Statement .srdLog := fun cfg _ => decode_c16_sreg cfg _ _

theorem swrLog : Statement .swrLog := fun cfg _ => decode_c16_sreg cfg _ _

theorem srdLr : Statement .srdLr := fun cfg _ => decode_c16_sreg cfg _ _

theorem swrLr : Statement .swrLr := fun cfg _ => decode_c16_sreg cfg _ _

theorem srdFault : Statement .srdFault := fun cfg _ => decode_c16_sreg cfg _ _

theorem swrFault : Statement .swrFault := fun cfg _ => decode_c16_sreg cfg _ _

theorem srdTime : Statement .srdTime := fun cfg _ => decode_c16_sreg cfg _ _

theorem swrTime : Statement .swrTime := fun cfg _ => decode_c16_sreg cfg _ _

theorem srdCycle : Statement .srdCycle := fun cfg _ => decode_c16_sreg cfg _ _

theorem swrCycle : Statement .swrCycle := fun cfg _ => decode_c16_sreg cfg _ _

theorem srdInstret : Statement .srdInstret := fun cfg _ => decode_c16_sreg cfg _ _

theorem swrInstret : Statement .swrInstret := fun cfg _ => decode_c16_sreg cfg _ _

theorem srdFcsr : Statement .srdFcsr := fun cfg _ => decode_c16_sreg cfg _ _

theorem swrFcsr : Statement .swrFcsr := fun cfg _ => decode_c16_sreg cfg _ _

theorem frcTake : Statement .frcTake := fun cfg _ => decode_c16_frc cfg _

theorem frcSet : Statement .frcSet := fun cfg _ => decode_c16_frc cfg _

theorem nop : Statement .nop := fun cfg _ => decode_c16_nop cfg

end Sys2Proof.Laws.RoundTrip
end

