-- ==== Sys2Proof/Laws/Step.lean ====
section
/-! SUPPORT. What a command and a cycle can do, said once. -/

namespace Sys2Proof.Machine

/-- Every command answers in one of the ways of `Answers`. -/
theorem exec_answers (i : Instr) (s : State) : Answers s (exec i s) := by
  cases i with
  | irdB idx => exact readIreg_answers _ _ idx s
  | irdH idx => exact readIreg_answers _ _ idx s
  | irdW idx => exact readIreg_answers _ _ idx s
  | irdD idx => exact readIreg_answers _ _ idx s
  | irdBU idx => exact readIreg_answers _ _ idx s
  | irdHU idx => exact readIreg_answers _ _ idx s
  | irdWU idx => exact readIreg_answers _ _ idx s
  | irdDU idx => exact readIreg_answers _ _ idx s
  | iwrB idx => exact writeIreg_answers _ idx s
  | iwrH idx => exact writeIreg_answers _ idx s
  | iwrW idx => exact writeIreg_answers _ idx s
  | iwrD idx => exact writeIreg_answers _ idx s
  | iwrBU idx => exact writeIreg_answers _ idx s
  | iwrHU idx => exact writeIreg_answers _ idx s
  | iwrWU idx => exact writeIreg_answers _ idx s
  | iwrDU idx => exact writeIreg_answers _ idx s
  | frdX idx => exact readFreg_answers _ idx s
  | frdXU idx => exact readFreg_answers _ idx s
  | frdS idx => exact readFreg_answers _ idx s
  | frdD idx => exact readFreg_answers _ idx s
  | fwrX idx => exact writeFreg_answers _ idx s
  | fwrXU idx => exact writeFreg_answers _ idx s
  | fwrS idx => exact writeFreg_answers _ idx s
  | fwrD idx => exact writeFreg_answers _ idx s
  | srdPc => exact .ok s _
  | swrPc => exact .writesScalar _
  | srdNode => exact .ok s _
  | swrNode => exact .writesScalar _
  | srdHart => exact .ok s _
  | swrHart => exact .writesScalar _
  | srdLog => exact .ok s _
  | swrLog => exact .writesScalar _
  | srdLr => exact .ok s _
  | swrLr => exact .writesScalar _
  | srdFault => exact .ok s _
  | swrFault => exact .writesScalar _
  | srdTime => exact .ok s _
  | swrTime => exact .writesScalar _
  | srdCycle => exact .ok s _
  | swrCycle => exact .writesScalar _
  | srdInstret => exact .ok s _
  | swrInstret => exact .writesScalar _
  | srdFcsr => exact .ok s _
  | swrFcsr => exact .writesScalar _
  | frcTake => exact takeRecovery_answers s
  | frcSet => exact .establishes
  | nop => exact .ok s 0

/-- All a cycle can do: a reset, a command performed, a decoding error, or nothing. -/
theorem step_cases (s : State) :
    (s.takeCycle.port.rst = true ∧ step s = .next s.takeCycle.afterReset)
    ∨ (∃ i, s.takeCycle.port.rst = false ∧ s.takeCycle.port.cmdValid = true ∧
        decode s.cfg s.takeCycle.port.cmd = .ok i ∧ step s = exec i s.takeCycle)
    ∨ (∃ e, s.takeCycle.port.rst = false ∧ s.takeCycle.port.cmdValid = true ∧
        decode s.cfg s.takeCycle.port.cmd = .error e ∧
        step s = .next (s.takeCycle.respond 0 e 0))
    ∨ (s.takeCycle.port.rst = false ∧ s.takeCycle.port.cmdValid = false ∧
        step s = .next s.takeCycle.afterIdle) := by
  cases hr : s.takeCycle.port.rst with
  | true => exact .inl ⟨rfl, by simp [step, hr]⟩
  | false =>
    cases hv : s.takeCycle.port.cmdValid with
    | false => exact .inr (.inr (.inr ⟨rfl, rfl, by simp [step, hr, hv]⟩))
    | true =>
      cases hd : decode s.cfg s.takeCycle.port.cmd with
      | ok i => exact .inr (.inl ⟨i, rfl, rfl, rfl, by simp [step, hr, hv, hd]⟩)
      | error e =>
        exact .inr (.inr (.inl ⟨e, rfl, rfl, rfl, by simp [step, hr, hv, hd, respondErr_eq]⟩))

end Sys2Proof.Machine
end

