-- ==== Sys2Proof/Tests/Slice0.lean ====
section
/-! SUPPORT. Tests of one step each, their expected values from spec/95_test_vectors.md (blocks V1 to
V7) and the tables of 30_encoding.md; the ill-formed terms WellFormed refuses; and, for every
obligation with hypotheses, a state and operands that meet them. -/

namespace Sys2Proof.Tests
open Sys2Proof Sys2Proof.Machine

/-- The reset state of a build. -/
def fresh (x : XLen) (f : FLen) (o : ByteOrder) : State :=
  State.resetOf { xlen := x, flen := f, iregCount := 32, fregCount := 32, order := o, frcBits := 8 }

/-- `CFG64` after reset, `ireg[5]` and `freg[2]` as given. -/
def big64 (o : ByteOrder) (r f : Word) : State :=
  ((fresh .x64 .f64 o).setIreg 5 r).setFreg 2 f

/-- `CFG32` after reset, `ireg[5]` as given. -/
def small32 (o : ByteOrder) (r : Word) : State := (fresh .x32 .f64 o).setIreg 5 r

/-- The narrow FP variant after reset, `freg[2]` as given. -/
def narrowFp (f : Word) : State := (fresh .x64 .f32 .little).setFreg 2 f

/-- `s` with a client that presents the word `w` next. -/
def asked (s : State) (w : Cmd) (d : Word) (p : Snapshot) : State :=
  { s with client := [{ rst := false, cmdValid := true, cmd := w, wdata := d, frcIn := p }] }

/-- One step of that state. -/
def issue (s : State) (w : Cmd) (d : Word := 0) (p : Snapshot := 0) : Out := step (asked s w d p)

/-- The response of a step. -/
def answer : Out → Option Response
  | .next t => t.resp
  | _ => none

/-- Something of the state a step leaves. -/
def after {α : Type} (f : State → α) : Out → Option α
  | .next t => some (f t)
  | _ => none

/-- The response of a command that was performed. -/
def good (d : Word) : Option Response := some { rdata := d, err := .ok, frcOut := 0 }

/-- An error response. -/
def bad (e : ErrCode) : Option Response := some { rdata := 0, err := e, frcOut := 0 }

/-- `CFG32` or `CFG64` after reset, one scalar field as given. -/
def scalarIs (x : XLen) (f : Scalar) (v : Word) : State := (fresh x .f64 .little).setScalar f v

def x5 (t : State) : Word := t.arch.ireg[5]
def f2 (t : State) : Word := t.arch.freg[2]

/-! ## Well-formedness: each check refuses an ill-formed term -/

/-- R106: the 64-bit integer views exist only with XLEN = 64. -/
theorem test_wf_wide_view : [Instr.irdD 0, .irdDU 0, .iwrD 0, .iwrDU 0].all (fun i =>
    !i.wf (Config.cfg32 .little 8) && i.wf (Config.cfg64 .little 8)) := by decide

/-- R106: the double view exists only with FLEN = 64. -/
theorem test_wf_double_view : [Instr.frdD 0, .fwrD 0].all (fun i =>
    !i.wf (fresh .x64 .f32 .little).cfg && i.wf (fresh .x64 .f64 .little).cfg) := by decide

/-- R96: an integer register at the count does not exist; the one below does. -/
theorem test_wf_ireg_index : !(Instr.irdB 16).wf { Config.build with iregCount := 16 } &&
    (Instr.irdB 15).wf { Config.build with iregCount := 16 } := by decide

/-- The same for an FP register. -/
theorem test_wf_freg_index : !(Instr.fwrS 16).wf { Config.build with fregCount := 16 } &&
    (Instr.fwrS 15).wf { Config.build with fregCount := 16 } := by decide

/-- A build whose parameters are out of range is refused. -/
theorem test_wf_config : ¬ Config.wf { Config.build with iregCount := 33 }
    ∧ ¬ Config.wf { Config.build with fregCount := 33 } ∧ ¬ Config.wf { Config.build with frcBits := 0 } := by decide

/-- A register value wider than XLEN is refused. -/
theorem test_wf_state :
    ¬ (small32 .little 0x100000000).wf ∧ (small32 .little 0xFFFFFFFF).wf := by decide

/-! ## Decoding: every constructor, the word built from the columns of R100 to R103 -/

/-- R100, class 0001, wr 0, idx 5 (and 31). -/
theorem test_decode_ird : [(0b0001_0_000_000_11111, Instr.irdB 31),
    (0b0001_0_001_000_00101, Instr.irdH 5),
    (0b0001_0_010_000_00101, Instr.irdW 5),
    (0b0001_0_011_000_00101, Instr.irdD 5),
    (0b0001_0_100_000_00101, Instr.irdBU 5),
    (0b0001_0_101_000_00101, Instr.irdHU 5),
    (0b0001_0_110_000_00101, Instr.irdWU 5),
    (0b0001_0_111_000_00101, Instr.irdDU 5)].all (fun r =>
    decide (decodeTableWord 16 r.1 = some r.2)) := by decide

/-- R100, class 0001, wr 1, idx 5 (and 31). -/
theorem test_decode_iwr : [(0b0001_1_000_000_11111, Instr.iwrB 31),
    (0b0001_1_001_000_00101, Instr.iwrH 5),
    (0b0001_1_010_000_00101, Instr.iwrW 5),
    (0b0001_1_011_000_00101, Instr.iwrD 5),
    (0b0001_1_100_000_00101, Instr.iwrBU 5),
    (0b0001_1_101_000_00101, Instr.iwrHU 5),
    (0b0001_1_110_000_00101, Instr.iwrWU 5),
    (0b0001_1_111_000_00101, Instr.iwrDU 5)].all (fun r =>
    decide (decodeTableWord 16 r.1 = some r.2)) := by decide

/-- R101, class 0010. -/
theorem test_decode_frd_fwr : [(0b0010_0_000_000_00010, Instr.frdX 2),
    (0b0010_0_001_000_00010, Instr.frdXU 2),
    (0b0010_0_010_000_00010, Instr.frdS 2),
    (0b0010_0_011_000_00010, Instr.frdD 2),
    (0b0010_1_000_000_00011, Instr.fwrX 3),
    (0b0010_1_001_000_00011, Instr.fwrXU 3),
    (0b0010_1_010_000_00011, Instr.fwrS 3),
    (0b0010_1_011_000_00011, Instr.fwrD 3)].all (fun r =>
    decide (decodeTableWord 16 r.1 = some r.2)) := by decide

/-- R102, class 0011, wr 0. -/
theorem test_decode_srd : [(0b0011_0_000_000_00000, Instr.srdPc),
    (0b0011_0_000_000_00001, Instr.srdNode),
    (0b0011_0_000_000_00010, Instr.srdHart),
    (0b0011_0_000_000_00011, Instr.srdLog),
    (0b0011_0_000_000_00100, Instr.srdLr),
    (0b0011_0_000_000_00101, Instr.srdFault),
    (0b0011_0_000_000_00110, Instr.srdTime),
    (0b0011_0_000_000_00111, Instr.srdCycle),
    (0b0011_0_000_000_01000, Instr.srdInstret),
    (0b0011_0_000_000_01001, Instr.srdFcsr)].all (fun r =>
    decide (decodeTableWord 16 r.1 = some r.2)) := by decide

/-- R102, class 0011, wr 1. -/
theorem test_decode_swr : [(0b0011_1_000_000_00000, Instr.swrPc),
    (0b0011_1_000_000_00001, Instr.swrNode),
    (0b0011_1_000_000_00010, Instr.swrHart),
    (0b0011_1_000_000_00011, Instr.swrLog),
    (0b0011_1_000_000_00100, Instr.swrLr),
    (0b0011_1_000_000_00101, Instr.swrFault),
    (0b0011_1_000_000_00110, Instr.swrTime),
    (0b0011_1_000_000_00111, Instr.swrCycle),
    (0b0011_1_000_000_01000, Instr.swrInstret),
    (0b0011_1_000_000_01001, Instr.swrFcsr)].all (fun r =>
    decide (decodeTableWord 16 r.1 = some r.2)) := by decide

/-- R103. -/
theorem test_decode_frc_nop : [(0b0100_0_000_000_00000, Instr.frcTake),
    (0b0100_1_000_000_00000, Instr.frcSet),
    (0b0000_0_000_000_00000, Instr.nop)].all (fun r =>
    decide (decodeTableWord 16 r.1 = some r.2)) := by decide

/-- V7, `CFG32` column: the words that are refused. -/
theorem test_v7_errors_a : [(0x0001#16, ErrCode.errField),
    (0x0100#16, ErrCode.errField),
    (0x0800#16, ErrCode.errField),
    (0x1421#16, ErrCode.errField),
    (0x14E1#16, ErrCode.errField),
    (0x1301#16, ErrCode.errView),
    (0x1701#16, ErrCode.errView),
    (0x1B01#16, ErrCode.errView),
    (0x2401#16, ErrCode.errView),
    (0x2701#16, ErrCode.errView),
    (0x2F01#16, ErrCode.errView),
    (0x23E1#16, ErrCode.errField)].all
    (fun r => decide (answer (issue (fresh .x32 .f64 .little) r.1 0x99 0x33) = bad r.2)) := by decide

/-- V7, `CFG32` column: the words that are refused. -/
theorem test_v7_errors_b : [(0x300A#16, ErrCode.errIndex),
    (0x301F#16, ErrCode.errIndex),
    (0x380A#16, ErrCode.errIndex),
    (0x3109#16, ErrCode.errField),
    (0x310A#16, ErrCode.errField),
    (0x4001#16, ErrCode.errField),
    (0x4100#16, ErrCode.errField),
    (0x4900#16, ErrCode.errField),
    (0x5000#16, ErrCode.errClass),
    (0x5FFF#16, ErrCode.errClass),
    (0x8005#16, ErrCode.errClass),
    (0xF000#16, ErrCode.errClass),
    (0xFFFF#16, ErrCode.errClass)].all
    (fun r => decide (answer (issue (fresh .x32 .f64 .little) r.1 0x99 0x33) = bad r.2)) := by decide

/-- V7, `CFG64` column: the words `CFG32` refuses are performed. -/
theorem test_v7_cfg64_accepts : [0x1301#16, 0x1701#16, 0x1B01#16].all
    (fun w => decide ((answer (issue (fresh .x64 .f64 .little) w)) = good 0)) := by decide

/-- V7, word 0x4001: the recovery point is not consumed. -/
theorem test_error_keeps_state :
    after State.arch (issue ((fresh .x32 .f64 .little).setFrc (some 0x21)) 0x4001 0x99 0x33)
    = some ((fresh .x32 .f64 .little).setFrc (some 0x21)).arch := by decide

/-! ## The integer views (V1, V2) -/

theorem test_irdB :
    answer (issue (big64 .little 0x1122334455667788 0) 0x1005) = good 0xFFFFFFFFFFFFFF88
    ∧ answer (issue (big64 .big 0x1122334455667788 0) 0x1005) = good 0x11
    ∧ answer (issue (big64 .little 0x8899AABBCCDDEEFF 0) 0x1005) = good 0xFFFFFFFFFFFFFFFF
    ∧ answer (issue (big64 .big 0x8899AABBCCDDEEFF 0) 0x1005) = good 0xFFFFFFFFFFFFFF88
    ∧ answer (issue (small32 .little 0xCCDDEEFF) 0x1005) = good 0xFFFFFFFFFFFFFFFF
    ∧ answer (issue (small32 .big 0xCCDDEEFF) 0x1005) = good 0xFFFFFFFFFFFFFFCC := by decide

theorem test_irdH : answer (issue (big64 .little 0x1122334455667788 0) 0x1105) = good 0x7788
    ∧ answer (issue (big64 .big 0x1122334455667788 0) 0x1105) = good 0x1122
    ∧ answer (issue (big64 .little 0x8899AABBCCDDEEFF 0) 0x1105) = good 0xFFFFFFFFFFFFEEFF
    ∧ answer (issue (big64 .big 0x8899AABBCCDDEEFF 0) 0x1105) = good 0xFFFFFFFFFFFF8899
    ∧ answer (issue (small32 .little 0xCCDDEEFF) 0x1105) = good 0xFFFFFFFFFFFFEEFF
    ∧ answer (issue (small32 .big 0xCCDDEEFF) 0x1105) = good 0xFFFFFFFFFFFFCCDD := by decide

theorem test_irdW : answer (issue (big64 .little 0x1122334455667788 0) 0x1205) = good 0x55667788
    ∧ answer (issue (big64 .big 0x1122334455667788 0) 0x1205) = good 0x11223344
    ∧ answer (issue (big64 .little 0x8899AABBCCDDEEFF 0) 0x1205) = good 0xFFFFFFFFCCDDEEFF
    ∧ answer (issue (big64 .big 0x8899AABBCCDDEEFF 0) 0x1205) = good 0xFFFFFFFF8899AABB
    ∧ answer (issue (small32 .little 0xCCDDEEFF) 0x1205) = good 0xFFFFFFFFCCDDEEFF
    ∧ answer (issue (small32 .big 0xCCDDEEFF) 0x1205) = good 0xFFFFFFFFCCDDEEFF := by decide

theorem test_irdD :
    answer (issue (big64 .little 0x1122334455667788 0) 0x1305) = good 0x1122334455667788
    ∧ answer (issue (big64 .big 0x1122334455667788 0) 0x1305) = good 0x1122334455667788
    ∧ answer (issue (big64 .little 0x8899AABBCCDDEEFF 0) 0x1305) = good 0x8899AABBCCDDEEFF
    ∧ answer (issue (big64 .big 0x8899AABBCCDDEEFF 0) 0x1305) = good 0x8899AABBCCDDEEFF
    ∧ answer (issue (small32 .little 0xCCDDEEFF) 0x1305) = bad .errView
    ∧ answer (issue (small32 .big 0xCCDDEEFF) 0x1305) = bad .errView := by decide

theorem test_irdBU : answer (issue (big64 .little 0x1122334455667788 0) 0x1405) = good 0x88
    ∧ answer (issue (big64 .big 0x1122334455667788 0) 0x1405) = good 0x11
    ∧ answer (issue (big64 .little 0x8899AABBCCDDEEFF 0) 0x1405) = good 0xFF
    ∧ answer (issue (big64 .big 0x8899AABBCCDDEEFF 0) 0x1405) = good 0x88
    ∧ answer (issue (small32 .little 0xCCDDEEFF) 0x1405) = good 0xFF
    ∧ answer (issue (small32 .big 0xCCDDEEFF) 0x1405) = good 0xCC := by decide

theorem test_irdHU : answer (issue (big64 .little 0x1122334455667788 0) 0x1505) = good 0x7788
    ∧ answer (issue (big64 .big 0x1122334455667788 0) 0x1505) = good 0x1122
    ∧ answer (issue (big64 .little 0x8899AABBCCDDEEFF 0) 0x1505) = good 0xEEFF
    ∧ answer (issue (big64 .big 0x8899AABBCCDDEEFF 0) 0x1505) = good 0x8899
    ∧ answer (issue (small32 .little 0xCCDDEEFF) 0x1505) = good 0xEEFF
    ∧ answer (issue (small32 .big 0xCCDDEEFF) 0x1505) = good 0xCCDD := by decide

theorem test_irdWU : answer (issue (big64 .little 0x1122334455667788 0) 0x1605) = good 0x55667788
    ∧ answer (issue (big64 .big 0x1122334455667788 0) 0x1605) = good 0x11223344
    ∧ answer (issue (big64 .little 0x8899AABBCCDDEEFF 0) 0x1605) = good 0xCCDDEEFF
    ∧ answer (issue (big64 .big 0x8899AABBCCDDEEFF 0) 0x1605) = good 0x8899AABB
    ∧ answer (issue (small32 .little 0xCCDDEEFF) 0x1605) = good 0xCCDDEEFF
    ∧ answer (issue (small32 .big 0xCCDDEEFF) 0x1605) = good 0xCCDDEEFF := by decide

theorem test_irdDU :
    answer (issue (big64 .little 0x1122334455667788 0) 0x1705) = good 0x1122334455667788
    ∧ answer (issue (big64 .big 0x1122334455667788 0) 0x1705) = good 0x1122334455667788
    ∧ answer (issue (big64 .little 0x8899AABBCCDDEEFF 0) 0x1705) = good 0x8899AABBCCDDEEFF
    ∧ answer (issue (big64 .big 0x8899AABBCCDDEEFF 0) 0x1705) = good 0x8899AABBCCDDEEFF
    ∧ answer (issue (small32 .little 0xCCDDEEFF) 0x1705) = bad .errView
    ∧ answer (issue (small32 .big 0xCCDDEEFF) 0x1705) = bad .errView := by decide

theorem test_iwrB :
    after x5 (issue (big64 .little 0x1122334455667788 0) 0x1805 0xFFFFFFFFFFFFF1AB)
      = some 0x11223344556677AB
    ∧ after x5 (issue (big64 .big 0x1122334455667788 0) 0x1805 0xFFFFFFFFFFFFF1AB)
      = some 0xAB22334455667788
    ∧ after x5 (issue (small32 .little 0x11223344) 0x1805 0xFFFFFFFFFFFFF1AB) = some 0x112233AB
    ∧ after x5 (issue (small32 .big 0x11223344) 0x1805 0xFFFFFFFFFFFFF1AB) = some 0xAB223344 := by decide

theorem test_iwrH :
    after x5 (issue (big64 .little 0x1122334455667788 0) 0x1905 0xFFFFFFFFFFFFF1AB)
      = some 0x112233445566F1AB
    ∧ after x5 (issue (big64 .big 0x1122334455667788 0) 0x1905 0xFFFFFFFFFFFFF1AB)
      = some 0xF1AB334455667788
    ∧ after x5 (issue (small32 .little 0x11223344) 0x1905 0xFFFFFFFFFFFFF1AB) = some 0x1122F1AB
    ∧ after x5 (issue (small32 .big 0x11223344) 0x1905 0xFFFFFFFFFFFFF1AB) = some 0xF1AB3344 := by decide

theorem test_iwrW :
    after x5 (issue (big64 .little 0x1122334455667788 0) 0x1A05 0xFFFFFFFFFFFFF1AB)
      = some 0x11223344FFFFF1AB
    ∧ after x5 (issue (big64 .big 0x1122334455667788 0) 0x1A05 0xFFFFFFFFFFFFF1AB)
      = some 0xFFFFF1AB55667788
    ∧ after x5 (issue (small32 .little 0x11223344) 0x1A05 0xFFFFFFFFFFFFF1AB) = some 0xFFFFF1AB
    ∧ after x5 (issue (small32 .big 0x11223344) 0x1A05 0xFFFFFFFFFFFFF1AB) = some 0xFFFFF1AB := by decide

theorem test_iwrD :
    after x5 (issue (big64 .little 0x1122334455667788 0) 0x1B05 0xFFFFFFFFFFFFF1AB)
      = some 0xFFFFFFFFFFFFF1AB
    ∧ after x5 (issue (big64 .big 0x1122334455667788 0) 0x1B05 0xFFFFFFFFFFFFF1AB)
      = some 0xFFFFFFFFFFFFF1AB
    ∧ after x5 (issue (small32 .little 0x11223344) 0x1B05 0xFFFFFFFFFFFFF1AB) = some 0x11223344
    ∧ after x5 (issue (small32 .big 0x11223344) 0x1B05 0xFFFFFFFFFFFFF1AB) = some 0x11223344 := by decide

theorem test_iwrBU :
    after x5 (issue (big64 .little 0x1122334455667788 0) 0x1C05 0xFFFFFFFFFFFFF1AB)
      = some 0x11223344556677AB
    ∧ after x5 (issue (big64 .big 0x1122334455667788 0) 0x1C05 0xFFFFFFFFFFFFF1AB)
      = some 0xAB22334455667788
    ∧ after x5 (issue (small32 .little 0x11223344) 0x1C05 0xFFFFFFFFFFFFF1AB) = some 0x112233AB
    ∧ after x5 (issue (small32 .big 0x11223344) 0x1C05 0xFFFFFFFFFFFFF1AB) = some 0xAB223344 := by decide

theorem test_iwrHU :
    after x5 (issue (big64 .little 0x1122334455667788 0) 0x1D05 0xFFFFFFFFFFFFF1AB)
      = some 0x112233445566F1AB
    ∧ after x5 (issue (big64 .big 0x1122334455667788 0) 0x1D05 0xFFFFFFFFFFFFF1AB)
      = some 0xF1AB334455667788
    ∧ after x5 (issue (small32 .little 0x11223344) 0x1D05 0xFFFFFFFFFFFFF1AB) = some 0x1122F1AB
    ∧ after x5 (issue (small32 .big 0x11223344) 0x1D05 0xFFFFFFFFFFFFF1AB) = some 0xF1AB3344 := by decide

theorem test_iwrWU :
    after x5 (issue (big64 .little 0x1122334455667788 0) 0x1E05 0xFFFFFFFFFFFFF1AB)
      = some 0x11223344FFFFF1AB
    ∧ after x5 (issue (big64 .big 0x1122334455667788 0) 0x1E05 0xFFFFFFFFFFFFF1AB)
      = some 0xFFFFF1AB55667788
    ∧ after x5 (issue (small32 .little 0x11223344) 0x1E05 0xFFFFFFFFFFFFF1AB) = some 0xFFFFF1AB
    ∧ after x5 (issue (small32 .big 0x11223344) 0x1E05 0xFFFFFFFFFFFFF1AB) = some 0xFFFFF1AB := by decide

theorem test_iwrDU :
    after x5 (issue (big64 .little 0x1122334455667788 0) 0x1F05 0xFFFFFFFFFFFFF1AB)
      = some 0xFFFFFFFFFFFFF1AB
    ∧ after x5 (issue (big64 .big 0x1122334455667788 0) 0x1F05 0xFFFFFFFFFFFFF1AB)
      = some 0xFFFFFFFFFFFFF1AB
    ∧ after x5 (issue (small32 .little 0x11223344) 0x1F05 0xFFFFFFFFFFFFF1AB) = some 0x11223344
    ∧ after x5 (issue (small32 .big 0x11223344) 0x1F05 0xFFFFFFFFFFFFF1AB) = some 0x11223344 := by decide

theorem test_iwrD_cfg32_error : answer (issue (small32 .big 0x11223344) 0x1B05 1) = bad .errView
    ∧ answer (issue (big64 .big 0 0) 0x1B05 1) = good 0 := by decide

/-- V3, step 2: register 0 is written and remembered (R22). -/
theorem test_x0_is_storage :
    after (fun t => t.arch.ireg[0]) (issue (big64 .little 0 0) 0x1B00 0xDEADBEEF00C0FFEE)
    = some 0xDEADBEEF00C0FFEE := by decide

/-- V3, step 12 under `BIG`, and its neighbours. -/
theorem test_x31_frame :
    after (fun t => (t.arch.ireg[31], t.arch.ireg[30], x5 t)) (issue (big64 .big 7 0) 0x1A1F 0x80000000)
    = some (0x8000000000000000, 0, 7) := by decide

/-! ## The FP views (V4) -/

theorem test_fwrS :
    after f2 (issue (big64 .little 0 0x123456789ABCDEF0) 0x2A02 0) = some 0x1234567800000000
    ∧ after f2 (issue (big64 .big 0 0x123456789ABCDEF0) 0x2A02 0) = some 0x000000009ABCDEF0 := by decide

theorem test_fwrS_drops_box :
    after f2 (issue (big64 .little 0 0xFFFFFFFFFFFFFFFF) 0x2A02 0xFFFFFFFF7FA00000)
      = some 0xFFFFFFFF7FA00000
    ∧ after f2 (issue (big64 .big 0 0xFFFFFFFFFFFFFFFF) 0x2A02 0xFFFFFFFF7FA00000)
      = some 0x7FA00000FFFFFFFF := by decide

theorem test_fwrD :
    after f2 (issue (big64 .little 0 0) 0x2B02 0x7FF0000000000001) = some 0x7FF0000000000001
    ∧ after f2 (issue (big64 .big 0 0) 0x2B02 0x7FF0000000000001) = some 0x7FF0000000000001 := by decide

theorem test_fwrX :
    after f2 (issue (big64 .little 0 0) 0x2802 0xC004000000000000) = some 0xC004000000000000
    ∧ after f2 (issue (big64 .big 0 0) 0x2802 0xC004000000000000) = some 0xC004000000000000 := by decide

theorem test_fwrXU :
    after f2 (issue (big64 .little 0 0) 0x2902 0x8000000000000000) = some 0x8000000000000000
    ∧ after f2 (issue (big64 .big 0 0) 0x2902 0x8000000000000000) = some 0x8000000000000000 := by decide

theorem test_frdS : answer (issue (big64 .little 0 0xFFFFFFFF3F800000) 0x2202) = good 0x3F800000
    ∧ answer (issue (big64 .big 0 0xFFFFFFFF3F800000) 0x2202) = good 0xFFFFFFFF := by decide

theorem test_frdD :
    answer (issue (big64 .little 0 0x7FF0000000000001) 0x2302) = good 0x7FF0000000000001
    ∧ answer (issue (big64 .big 0 0x7FF0000000000001) 0x2302) = good 0x7FF0000000000001 := by decide

theorem test_frdX :
    answer (issue (big64 .little 0 0xC004000000000000) 0x2002) = good 0xC004000000000000
    ∧ answer (issue (big64 .big 0 0xC004000000000000) 0x2002) = good 0xC004000000000000 := by decide

theorem test_frdXU :
    answer (issue (big64 .little 0 0xC004000000000000) 0x2102) = good 0xC004000000000000
    ∧ answer (issue (big64 .big 0 0xC004000000000000) 0x2102) = good 0xC004000000000000 := by decide

/-- V4, FLEN = 32. -/
theorem test_narrow_fp_reads : answer (issue (narrowFp 0xBF800000) 0x2002) = good 0xFFFFFFFFBF800000
    ∧ answer (issue (narrowFp 0xBF800000) 0x2102) = good 0xBF800000
    ∧ answer (issue (narrowFp 0xBF800000) 0x2202) = good 0xBF800000
    ∧ answer (issue (narrowFp 0xBF800000) 0x2302) = bad .errView := by decide

/-- V4, FLEN = 32. -/
theorem test_narrow_fp_writes : answer (issue (narrowFp 0xBF800000) 0x2B02 1) = bad .errView
    ∧ after f2 (issue (narrowFp 0xBF800000) 0x2B02 1) = some 0xBF800000
    ∧ after f2 (issue (narrowFp 0xBF800000) 0x2802 0x1234567800000001) = some 1 := by decide

/-! ## The scalar fields (V5): a write, then the read of the state with the field so set -/

theorem test_swrPc :
    after (fun t => t.arch.pc) (issue (fresh .x32 .f64 .little) 0x3800 0xFFFFFFFF80000004)
      = some 0x80000004
    ∧ after (fun t => t.arch.pc) (issue (fresh .x64 .f64 .big) 0x3800 0xFFFFFFFF80000004)
      = some 0xFFFFFFFF80000004 := by decide

theorem test_srdPc : answer (issue (scalarIs .x32 .pc 0x80000004) 0x3000) = good 0x0000000080000004
    ∧ answer (issue (scalarIs .x64 .pc 0xFFFFFFFF80000004) 0x3000) = good 0xFFFFFFFF80000004 := by decide

theorem test_swrNode :
    after (fun t => t.arch.nodeId) (issue (fresh .x32 .f64 .little) 0x3801 0x12345) = some 0x2345
    ∧ after (fun t => t.arch.nodeId) (issue (fresh .x64 .f64 .big) 0x3801 0x12345) = some 0x2345 := by decide

theorem test_srdNode : answer (issue (scalarIs .x32 .nodeId 0x2345) 0x3001) = good 0x2345
    ∧ answer (issue (scalarIs .x64 .nodeId 0x2345) 0x3001) = good 0x2345 := by decide

theorem test_swrHart :
    after (fun t => t.arch.hartId) (issue (fresh .x32 .f64 .little) 0x3802 0xFFFF) = some 0xFFFF
    ∧ after (fun t => t.arch.hartId) (issue (fresh .x64 .f64 .big) 0x3802 0xFFFF) = some 0xFFFF := by decide

theorem test_srdHart : answer (issue (scalarIs .x32 .hartId 0xFFFF) 0x3002) = good 0xFFFF
    ∧ answer (issue (scalarIs .x64 .hartId 0xFFFF) 0x3002) = good 0xFFFF := by decide

theorem test_swrLog :
    after (fun t => t.arch.log) (issue (fresh .x32 .f64 .little) 0x3803 0xFFFFFFFF00000181)
      = some 0x181
    ∧ after (fun t => t.arch.log) (issue (fresh .x64 .f64 .big) 0x3803 0xFFFFFFFF00000181)
      = some 0x181 := by decide

theorem test_srdLog : answer (issue (scalarIs .x32 .log 0x181) 0x3003) = good 0x181
    ∧ answer (issue (scalarIs .x64 .log 0x181) 0x3003) = good 0x181 := by decide

theorem test_swrLr :
    after (fun t => t.arch.lr) (issue (fresh .x32 .f64 .little) 0x3804 0x80001000) = some 0x80001000
    ∧ after (fun t => t.arch.lr) (issue (fresh .x64 .f64 .big) 0x3804 0x80001000) = some 0x80001000 := by decide

theorem test_srdLr : answer (issue (scalarIs .x32 .lr 0x80001000) 0x3004) = good 0xFFFFFFFF80001000
    ∧ answer (issue (scalarIs .x64 .lr 0x80001000) 0x3004) = good 0x80001000 := by decide

theorem test_swrFault :
    after (fun t => t.arch.faultAddr) (issue (fresh .x32 .f64 .little) 0x3805 0xDEAD0008)
      = some 0xDEAD0008
    ∧ after (fun t => t.arch.faultAddr) (issue (fresh .x64 .f64 .big) 0x3805 0xDEAD0008)
      = some 0xDEAD0008 := by decide

theorem test_srdFault :
    answer (issue (scalarIs .x32 .faultAddr 0xDEAD0008) 0x3005) = good 0xFFFFFFFFDEAD0008
    ∧ answer (issue (scalarIs .x64 .faultAddr 0xDEAD0008) 0x3005) = good 0xDEAD0008 := by decide

theorem test_swrTime :
    after (fun t => t.arch.time) (issue (fresh .x32 .f64 .little) 0x3806 0xFFFFFFFFFFFFFFFF)
      = some 0xFFFFFFFFFFFFFFFF
    ∧ after (fun t => t.arch.time) (issue (fresh .x64 .f64 .big) 0x3806 0xFFFFFFFFFFFFFFFF)
      = some 0xFFFFFFFFFFFFFFFF := by decide

theorem test_srdTime :
    answer (issue (scalarIs .x32 .time 0xFFFFFFFFFFFFFFFF) 0x3006) = good 0xFFFFFFFFFFFFFFFF
    ∧ answer (issue (scalarIs .x64 .time 0xFFFFFFFFFFFFFFFF) 0x3006) = good 0xFFFFFFFFFFFFFFFF := by decide

theorem test_swrCycle :
    after (fun t => t.arch.cycle) (issue (fresh .x32 .f64 .little) 0x3807 0x100000000)
      = some 0x100000000
    ∧ after (fun t => t.arch.cycle) (issue (fresh .x64 .f64 .big) 0x3807 0x100000000)
      = some 0x100000000 := by decide

theorem test_srdCycle : answer (issue (scalarIs .x32 .cycle 0x100000000) 0x3007) = good 0x100000000
    ∧ answer (issue (scalarIs .x64 .cycle 0x100000000) 0x3007) = good 0x100000000 := by decide

theorem test_swrInstret :
    after (fun t => t.arch.instret) (issue (fresh .x32 .f64 .little) 0x3808 1) = some 1
    ∧ after (fun t => t.arch.instret) (issue (fresh .x64 .f64 .big) 0x3808 1) = some 1 := by decide

theorem test_srdInstret : answer (issue (scalarIs .x32 .instret 1) 0x3008) = good 1
    ∧ answer (issue (scalarIs .x64 .instret 1) 0x3008) = good 1 := by decide

theorem test_swrFcsr :
    after (fun t => t.arch.fcsr) (issue (fresh .x32 .f64 .little) 0x3809 0xFFFFFFFFFFFFFFFF)
      = some 0xFFFFFFFF
    ∧ after (fun t => t.arch.fcsr) (issue (fresh .x64 .f64 .big) 0x3809 0xFFFFFFFFFFFFFFFF)
      = some 0xFFFFFFFFFFFFFFFF := by decide

theorem test_srdFcsr : answer (issue (scalarIs .x32 .fcsr 0xFFFFFFFF) 0x3009) = good 0xFFFFFFFF
    ∧ answer (issue (scalarIs .x64 .fcsr 0xFFFFFFFFFFFFFFFF) 0x3009) = good 0xFFFFFFFFFFFFFFFF := by decide

/-- V5, from reset. -/
theorem test_lr_after_reset :
    answer (issue (fresh .x32 .f64 .little) 0x3004) = good 0xFFFFFFFFFFFFFFFF
    ∧ answer (issue (fresh .x64 .f64 .little) 0x3004) = good 0xFFFFFFFFFFFFFFFF := by decide

/-- V5: the block does not enforce R233. -/
theorem test_smaller_counter_accepted :
    after (fun t => t.arch.cycle) (issue (scalarIs .x64 .cycle 9) 0x3807 3) = some 3 := by decide

/-- V5 and R36: 0x181 is bits 0, 7 and 8. -/
theorem test_log_reserved_bits_kept :
    after (fun t => t.arch.log) (issue (fresh .x64 .f64 .little) 0x3803 0xFFFFFE00)
      = some 0xFFFFFE00
    ∧ (scalarIs .x64 .log 0x181).arch.logFlag .inst = true
    ∧ (scalarIs .x64 .log 0x181).arch.logFlag .ireg = true
    ∧ (scalarIs .x64 .log 0x181).arch.logFlag .noPseudo = true
    ∧ (scalarIs .x64 .log 0x181).arch.logFlag .operands = false := by decide

/-! ## Recovery context, NOP, reset, idle (V6; R91, R220) -/

/-- V6, step 4: the earlier point is replaced. -/
theorem test_frcSet :
    after (fun t => t.arch.frc) (issue ((fresh .x64 .f64 .little).setFrc (some 0x5A)) 0x4800 0 0x77)
    = some (some 0x77) := by decide

/-- V6, step 8: an all-zero snapshot is a recovery point. -/
theorem test_frcSet_zero :
    after (fun t => (t.arch.frc, t.resp)) (issue (fresh .x64 .f64 .little) 0x4800 0 0)
    = some (some 0, good 0) := by decide

/-- V6, step 6. -/
theorem test_frcTake :
    after (fun t => (t.arch.frc, t.resp)) (issue ((fresh .x64 .f64 .little).setFrc (some 0x77)) 0x4000)
    = some (none, some { rdata := 0, err := .ok, frcOut := 0x77 }) := by decide

/-- V6, step 2. -/
theorem test_frcTake_none :
    answer (issue (fresh .x64 .f64 .little) 0x4000) = bad .errNoRecovery := by decide

/-- V6, step 5. -/
theorem test_nop : after (fun t => (t.arch, t.resp)) (issue (big64 .little 5 6) 0x0000 7 8)
    = some ((big64 .little 5 6).arch, good 0) := by decide

/-- R220: reset takes precedence over the command of the same cycle. -/
theorem test_reset_wins : after (fun t => (t.arch, t.resp)) (step { big64 .little 5 6 with
    client := [{ rst := true, cmdValid := true, cmd := 0x1B05, wdata := 1, frcIn := 0 }] })
    = some ((fresh .x64 .f64 .little).arch, none) := by decide

/-- R91. -/
theorem test_idle : after (fun t => (t.arch, t.resp)) (step { big64 .little 5 6 with
    client := [{ rst := false, cmdValid := false, cmd := 0x1B05, wdata := 1, frcIn := 0 }] })
    = some ((big64 .little 5 6).arch, none) := by decide

/-- The word presented is the first one performed after reset. -/
theorem test_fetch_word : after (fun t => x5 t) (step (State.withFetchWord { State.reset with
    port := { PortIn.quiet with wdata := 0xAB } } 16 0x1805)) = some 0xAB
    ∧ answer (step (State.reset.withFetchWord 16 0x3004)) = good 0xFFFFFFFFFFFFFFFF := by decide

/-- R191. -/
theorem test_error_codes :
    [ErrCode.ok, .errClass, .errField, .errView, .errIndex, .errNoRecovery].map (fun e =>
    e.code.toNat) = [0, 1, 2, 3, 4, 5] := by decide

/-! ## Text (R108 to R110) -/

theorem test_text_commands : assemble Config.build "IRD.BU x31" = some [{ instr := .irdBU 31 }]
    ∧ assemble Config.build "iwr.b x5, 0xFFFFFFFFFFFFF1AB"
      = some [{ instr := .iwrB 5, wdata := 0xFFFFFFFFFFFFF1AB }]
    ∧ assemble Config.build "fwr.s f2, 1065353216"
      = some [{ instr := .fwrS 2, wdata := 0x3F800000 }]
    ∧ assemble Config.build "frd.xu f0" = some [{ instr := .frdXU 0 }] := by decide

theorem test_text_scalars :
    assemble Config.build "swr.lr 0x80001000" = some [{ instr := .swrLr, wdata := 0x80001000 }]
    ∧ assemble Config.build "srd.instret" = some [{ instr := .srdInstret }]
    ∧ assemble Config.build "frc.set 0x5A" = some [{ instr := .frcSet, frcIn := 0x5A }]
    ∧ assemble Config.build "nop" = some [{ instr := .nop }] := by decide

theorem test_text_pseudo : assemble (Config.cfg32 .little 8) "ird x3" = some [{ instr := .irdW 3 }]
    ∧ assemble (Config.cfg64 .little 8) "ird x3" = some [{ instr := .irdD 3 }]
    ∧ assemble Config.build "fault 0x10"
      = some [{ instr := .swrFault, wdata := 0x10 }, { instr := .frcTake }]
    ∧ assemble Config.build "lr.clear" = some [{ instr := .swrLr, wdata := 0xFFFFFFFFFFFFFFFF }] := by decide

theorem test_text_refused :
    assemble Config.build "ird.b x32" = none ∧ assemble Config.build "ird.b f1" = none
    ∧ assemble Config.build "frd.w f1" = none ∧ assemble Config.build "swr.pc" = none
    ∧ assemble Config.build "swr.pc 0x10000000000000000" = none
    ∧ assemble (Config.cfg64 .little 4) "frc.set 0x10" = none := by decide

/-! ## Witnesses: states and operands that meet the hypotheses of the obligations

One theorem per obligation that has hypotheses, at boundary values (register 31, both widths, both
byte orders) and one line per clause. -/

/-- SignedIregReads, UnsignedIregReads, SignedIregWrites, UnsignedIregWrites: register 31, either
width. -/
theorem witness_ireg_commands :
    (31 : RegIdx).val < (fresh .x64 .f64 .big).cfg.iregCount ∧ (fresh .x64 .f64 .big).cfg.xlen = .x64
    ∧ (31 : RegIdx).val < (fresh .x32 .f64 .big).cfg.iregCount
    ∧ (fresh .x32 .f64 .big).cfg.xlen = .x32 := by decide

/-- FregReads, FregWrites: register 31, either width. -/
theorem witness_freg_commands :
    (31 : RegIdx).val < (fresh .x64 .f64 .big).cfg.fregCount ∧ (fresh .x64 .f64 .big).cfg.flen = .f64
    ∧ (31 : RegIdx).val < (fresh .x64 .f32 .big).cfg.fregCount
    ∧ (fresh .x64 .f32 .big).cfg.flen = .f32 := by decide

/-- FrcAndNop: a recovery point, and none. -/
theorem witness_FrcAndNop : (fresh .x64 .f64 .little).arch.frc = none
    ∧ ((fresh .x64 .f64 .little).setFrc (some 255)).arch.frc = some 255 := by decide

theorem witness_NarrowReadsTakeAliasedBits :
    (31 : RegIdx).val < (fresh .x32 .f64 .little).cfg.iregCount
    ∧ (31 : RegIdx).val < (fresh .x64 .f64 .big).cfg.iregCount
    ∧ (8, Instr.irdB 31, Instr.irdBU 31) ∈ [(8, Instr.irdB 31, Instr.irdBU 31),
      (16, .irdH 31, .irdHU 31), (32, .irdW 31, .irdWU 31)]
    ∧ (32, Instr.irdW 31, Instr.irdWU 31) ∈ [(8, Instr.irdB 31, Instr.irdBU 31),
      (16, .irdH 31, .irdHU 31), (32, .irdW 31, .irdWU 31)] := by decide

theorem witness_NarrowWritesKeepOtherBits :
    ∀ s ∈ [big64 .little 0xFFFFFFFFFFFFFFFF 0, big64 .big 1 0, small32 .little 0xFFFFFFFF,
      small32 .big 0xFFFFFFFF], s.wf ∧ (31 : RegIdx).val < s.cfg.iregCount
    ∧ (32, Instr.iwrW 31, Instr.iwrWU 31) ∈ [(8, Instr.iwrB 31, Instr.iwrBU 31),
      (16, .iwrH 31, .iwrHU 31), (32, .iwrW 31, .iwrWU 31)] := by decide

theorem witness_ViewLaws : (32 ∈ [32, 64] ∧ fits 32 0xFFFFFFFF#64) ∧ (64 ∈ [32, 64]
    ∧ fits 64 0xFFFFFFFFFFFFFFFF#64) ∧ 64 ≤ 64 ∧ 8 ≤ 16 ∧ 16 ≤ 32 := by decide

/-- Both clauses, at their common boundary: byte 0 is of the view of one byte, byte 1 is not. -/
theorem witness_ViewsAreLeadingStorageBytes : (4 ∈ [4, 8] ∧ 8 ∈ [4, 8] ∧ 8 ≤ 8)
    ∧ (1 ≤ 4 ∧ 0 < 1) ∧ (1 ≤ 1 ∧ 1 < 4) := by decide

theorem witness_WriteThenReadSameView :
    ((31 : RegIdx).val < (fresh .x32 .f64 .big).cfg.iregCount
      ∧ (32, Instr.iwrW 31, Instr.irdW 31, Instr.irdWU 31) ∈ [(8, Instr.iwrB 31, Instr.irdB 31,
        Instr.irdBU 31), (16, .iwrH 31, .irdH 31, .irdHU 31), (32, .iwrW 31, .irdW 31, .irdWU 31),
        (64, .iwrD 31, .irdD 31, .irdDU 31)] ∧ 32 ≤ (fresh .x32 .f64 .big).cfg.xlen.bits)
    ∧ 64 ≤ (fresh .x64 .f64 .big).cfg.xlen.bits := by decide

theorem witness_FpViewsReinterpretOneRegister : (fresh .x64 .f64 .big).cfg.flen = .f64
    ∧ (31 : RegIdx).val < (fresh .x64 .f64 .big).cfg.fregCount
    ∧ Instr.fwrD 31 ∈ [Instr.fwrX 31, .fwrXU 31, .fwrD 31] := by decide

theorem witness_DecodeEncodeAgree : decode Config.build 0x171F = .ok (.irdDU 31)
    ∧ (Instr.irdDU 31).wf Config.build = true ∧ encode (.irdDU 31) = 0x171F := by decide

theorem witness_FieldDecoderMatchesOpcodeMap : decode Config.build 0x2B1F = .ok (.fwrD 31)
    ∧ rowCommand 0x2B1F = some (.fwrD 31) ∧ (Instr.fwrD 31).wf Config.build = true := by decide

/-- One word per clause: class 5 with every field set; a field defect beside a view defect; a view
defect (word 0x1301 with XLEN = 32); an index defect, the first and the last; a command. -/
theorem witness_DecodeErrorsInOrder :
    5 ≤ (0x5FFF#16).toNat / 4096
    ∧ ((0x23E1#16).toNat / 4096 < 5 ∧ (0x23E1#16).toNat / 32 % 8 ≠ 0)
    ∧ ((0x1301#16).toNat / 4096 = 1 ∧ (0x1301#16).toNat / 32 % 8 = 0
      ∧ 8 * 2 ^ ((0x1301#16).toNat / 256 % 8 % 4) > (Config.cfg32 .little 8).xlen.bits)
    ∧ ((0x300A#16).toNat / 4096 = 3 ∧ (0x300A#16).toNat / 256 % 8 = 0
      ∧ (0x300A#16).toNat / 32 % 8 = 0 ∧ (0x300A#16).toNat % 32 ≥ 10)
    ∧ ((0x3009#16).toNat / 4096 = 3 ∧ (0x3009#16).toNat / 256 % 8 = 0
      ∧ (0x3009#16).toNat / 32 % 8 = 0 ∧ (0x3009#16).toNat % 32 < 10)
    ∧ (asked (fresh .x32 .f64 .little) 0x1301 0 0).takeCycle.port.rst = false
    ∧ (asked (fresh .x32 .f64 .little) 0x1301 0 0).takeCycle.port.cmdValid = true
    ∧ decode (fresh .x32 .f64 .little).cfg 0x1301 = .error .errView := by decide

/-- A view that does not exist, of either file; an index at the count; both at once. -/
theorem witness_MissingCommandsAnswerTheDecodingError :
    (Instr.iwrDU 31).wf (fresh .x32 .f64 .little).cfg = false
    ∧ (Instr.frdD 31).wf (fresh .x64 .f32 .little).cfg = false
    ∧ (Instr.irdB 31).wf { Config.build with iregCount := 31 } = false
    ∧ (Instr.irdD 31).wf { Config.cfg32 .little 8 with iregCount := 31 } = false := by decide

theorem witness_StepPerformsDecodedCommand :
    ∃ (s : State) (c : PortIn) (rest : List PortIn) (i : Instr),
    s.client = c :: rest ∧ c.rst = false ∧ c.cmdValid = true ∧ decode s.cfg c.cmd = .ok i :=
  ⟨asked (fresh .x32 .f64 .big) 0x1A1F 1 0, _, _, .iwrW 31, rfl, rfl, rfl, by decide⟩

theorem witness_StepAnswersErrorWords :
    ∃ (s : State) (c : PortIn) (rest : List PortIn) (e : ErrCode),
    s.client = c :: rest ∧ c.rst = false ∧ c.cmdValid = true ∧ decode s.cfg c.cmd = .error e :=
  ⟨asked (fresh .x32 .f64 .big) 0xFFFF 1 0, _, _, .errClass, rfl, rfl, rfl, by decide⟩

/-- A reset cycle, an idle cycle, and the end of the stream. -/
theorem witness_ResetWinsAndIdleKeeps :
    (∃ (s : State) (c : PortIn) (rest : List PortIn), s.client = c :: rest ∧ c.rst = true)
    ∧ (∃ (s : State) (c : PortIn) (rest : List PortIn),
        s.client = c :: rest ∧ c.rst = false ∧ c.cmdValid = false)
    ∧ ∃ s : State, s.client = [] :=
  ⟨⟨{ State.reset with client := [{ PortIn.quiet with rst := true }] }, _, _, rfl, rfl⟩,
    ⟨{ State.reset with client := [PortIn.quiet] }, _, _, rfl, rfl, rfl⟩, State.reset, rfl⟩

theorem witness_ResetValues : (31 : RegIdx).val < Config.build.iregCount
    ∧ (31 : RegIdx).val < Config.build.fregCount ∧ Config.build.xlen = .x64
    ∧ Config.build.flen = .f64 := by decide

/-- A well-formed state with every register file and the recovery context in use, and its step. -/
theorem witness_WellFormedStateIsKept :
    (asked ((big64 .big 5 6).setFrc (some 255)) 0x4000 0 0).wf
    ∧ ∃ t, step (asked ((big64 .big 5 6).setFrc (some 255)) 0x4000 0 0) = .next t :=
  ⟨by decide, _, rfl⟩

theorem witness_ResetStateIsWellFormed : (Config.cfg32 .big 1).wf ∧ Config.build.wf := by decide

theorem witness_EveryCycleCompletes :
    (asked State.reset 0xFFFF 0 0).takeCycle.port.rst = false
    ∧ (asked State.reset 0xFFFF 0 0).takeCycle.port.cmdValid = true := by decide

theorem witness_ErrorsChangeNothingAndLeaveNoRecord : ∃ (s t : State) (r : Response),
    step s = .next t ∧ t.resp = some r ∧ r.err ≠ .ok :=
  ⟨asked State.reset 0x4000 0 0, _, _, rfl, rfl, by decide⟩

/-- A command that writes another element, for every clause. -/
theorem witness_OnlyNamedCommandsChangeAnElement : ∃ t, exec (.iwrD 31) State.reset = .next t
    ∧ Instr.iwrD 31 ≠ .swrPc ∧ Instr.iwrD 31 ≠ .swrFcsr ∧ Instr.iwrD 31 ≠ .frcSet
    ∧ Instr.iwrD 31 ≠ .frcTake ∧ Instr.iwrD 31 ∉ [Instr.iwrB 30, .iwrH 30, .iwrW 30, .iwrD 30,
      .iwrBU 30, .iwrHU 30, .iwrWU 30, .iwrDU 30]
    ∧ Instr.iwrD 31 ∉ [Instr.fwrX 31, .fwrXU 31, .fwrS 31, .fwrD 31] := by
  refine ⟨_, rfl, ?_⟩
  decide

theorem witness_CommandsAreIdempotentExceptTake :
    (∃ t, exec (.iwrB 31) (big64 .big 5 6) = .next t) ∧ Instr.iwrB 31 ≠ .frcTake
    ∧ (∃ t, exec (.irdB 31) (big64 .big 5 6) = .next t) ∧ fieldWr (encode (.irdB 31)) = false
    ∧ ∃ t, exec .frcTake ((big64 .big 5 6).setFrc (some 0)) = .next t :=
  ⟨⟨_, rfl⟩, by decide, ⟨_, rfl⟩, by decide, _, rfl⟩

theorem witness_LoggingMaskHasNoEffect : (∃ t, exec .swrLog State.reset = .next t)
    ∧ Instr.swrLog ≠ .srdLog ∧ ∃ t, exec (.irdD 31) State.reset = .next t :=
  ⟨⟨_, rfl⟩, by decide, _, rfl⟩

/-- Two cycles, one of them a write of another field; no field word but that one. -/
theorem witness_FieldKeepsItsValueBetweenWrites :
    let cs := [(⟨.swrPc, 4, 0⟩ : Command).cycle, PortIn.quiet]
    { State.reset with client := cs }.client = cs ++ [] ∧ (∀ c ∈ cs, c.rst = false)
    ∧ (∀ c ∈ cs, c.cmd ≠ BitVec.ofNat 16 (0x3800 + Scalar.fcsr.index))
    ∧ (∀ c ∈ cs, c.cmd ≠ 0x4000#16 ∧ c.cmd ≠ 0x4800#16) := by decide

/-- A write of the value held, and one above it. -/
theorem witness_CountersNeverDecreaseUnderClientDuty :
    (asked (scalarIs .x64 .cycle 9) 0x3807 9 0).keepsCounters
    ∧ (asked (scalarIs .x64 .time 9) 0x3806 0xFFFFFFFFFFFFFFFF 0).keepsCounters
    ∧ ∃ t, step (asked (scalarIs .x64 .cycle 9) 0x3807 9 0) = .next t :=
  ⟨by decide, by decide, _, rfl⟩

/-- A command that succeeds, and a take with nothing to take. -/
theorem witness_TableClientSeesOnlyNoRecovery :
    (asked State.reset 0x1F1F 1 0).presentsCommand ∧ (asked State.reset 0x4000 0 0).presentsCommand :=
  ⟨⟨.iwrDU 31, by decide, by decide⟩, .frcTake, by decide, by decide⟩

theorem witness_NativePseudoCommandsMoveTheWholeRegister :
    (31 : RegIdx).val < (fresh .x32 .f64 .big).cfg.iregCount
    ∧ (31 : RegIdx).val < (fresh .x64 .f32 .big).cfg.fregCount := by decide

/-- The mask 0x181 is that of the flags of bits 0, 7 and 8. -/
theorem witness_LoggingMaskIsThirtyTwoBitsOfStorage :
    (scalarIs .x64 .log 0x181).arch.log = LogFlag.mask [.inst, .ireg, .noPseudo]
    ∧ LogFlag.inst.bit = LogFlag.inst.bit := by decide

theorem witness_ReservationHeldUnlessAllOnes : Instr.swrPc ≠ .swrLr
    ∧ ∃ t, exec .swrPc (scalarIs .x32 .lr 0x80001000) = .next t := ⟨by decide, _, rfl⟩

theorem witness_HartsShareNothing : (0 : Nat) ≠ 1
    ∧ (System.mk [State.reset, State.reset]).harts[1]? = some State.reset := by decide

end Sys2Proof.Tests
end

section
/-! PROOF of O37 (R37, R38). `SWR.LOG` stores `wdata[31:0]` and `SRD.LOG` presents it; a mask made of
flags holds exactly those flags, because each flag has a bit of its own below bit 32. -/

namespace Sys2Proof.Machine

theorem LogFlag.bit_lt (f : LogFlag) : f.bit < 32 := by
  cases f <;> decide

/-- The nine flags in bit order (R36). -/
def LogFlag.all : List LogFlag :=
  [.inst, .operands, .mmap, .csrM, .csrH, .csrS, .csrU, .ireg, .noPseudo]

theorem LogFlag.all_getElem?_bit (f : LogFlag) : LogFlag.all[f.bit]? = some f := by
  cases f <;> rfl

/-- No two flags share a bit: the bit is the flag's place in the list of all. -/
theorem LogFlag.bit_injective : Function.Injective LogFlag.bit := fun f g h =>
  Option.some.inj <| by rw [← all_getElem?_bit f, h, all_getElem?_bit g]

@[simp] theorem LogFlag.mask_nil : LogFlag.mask [] = 0 := rfl

@[simp] theorem LogFlag.mask_cons (g : LogFlag) (fs : List LogFlag) :
    LogFlag.mask (g :: fs) = LogFlag.mask fs ||| BitVec.twoPow 32 g.bit := rfl

/-- R38: each flag is set or clear in a mask on its own, whatever the others are. -/
theorem LogFlag.getLsbD_mask (fs : List LogFlag) (f : LogFlag) :
    (LogFlag.mask fs).getLsbD f.bit = true ↔ f ∈ fs := by
  induction fs with
  | nil => simp
  | cons g gs ih =>
    have hown : g.bit = f.bit ↔ f = g := LogFlag.bit_injective.eq_iff.trans eq_comm
    simp [BitVec.getLsbD_twoPow, g.bit_lt, hown, ih, or_comm]

theorem exec_swrLog (s : State) :
    exec .swrLog s = .next ((s.setScalar .log s.port.wdata).respond 0 .ok 0) :=
  writeScalar_eq .log s

/-- R37: a flag of the mask after a write of `log` is the bit of the word written. -/
theorem logFlag_putScalar_log (x : XLen) (a : Arch) (v : Word) (f : LogFlag) :
    (a.putScalar x v .log).logFlag f = v.getLsbD f.bit := by
  simp [Arch.logFlag, f.bit_lt]

/-- R37: all 32 bits of `log` are presented, above them zeros. -/
theorem exec_srdLog (s : State) :
    exec .srdLog s = .next (s.respond (s.arch.log.setWidth 64) .ok 0) := by
  have hlog : (s.arch.log.setWidth 64).setWidth 32 = s.arch.log := by simp
  calc exec .srdLog s
      = .next (s.respond (((s.arch.log.setWidth 64).setWidth 32).setWidth 64) .ok 0) :=
        readScalar_eq .log s
    _ = .next (s.respond (s.arch.log.setWidth 64) .ok 0) := by rw [hlog]

/-- Settles O37: the write and the read of `log` by their rules, the masks by induction on the list
of flags, the flags' bits by injectivity of `LogFlag.bit`. -/
theorem loggingMaskIsThirtyTwoBitsOfStorage :
    Obligations.LoggingMaskIsThirtyTwoBitsOfStorage := by
  refine ⟨fun s => ⟨_, exec_swrLog s, rfl, rfl, ?flags, exec_srdLog _⟩, ?masks,
    fun _ _ h => LogFlag.bit_injective h⟩
  case flags => exact logFlag_putScalar_log s.cfg.xlen s.arch s.port.wdata
  case masks =>
    intro fs a ha f
    rw [Arch.logFlag, ha]
    exact LogFlag.getLsbD_mask fs f

end Sys2Proof.Machine
end

section
/-! SUPPORT. Where a view (R65) and a storage byte (R63) stand in a register, as an offset in bits:
the bit equations of viewGet, viewPut and storageByte without a case on the byte order, and the laws
of R69 that follow. The `BIG` offset of a view is the choice of 90_conflicts.md C1 (log 5). -/

namespace Sys2Proof.Machine

/-- The register bit that is bit 0 of the view of `w` bits (R65). -/
def viewOffset (order : ByteOrder) (n w : Nat) : Nat :=
  match order with
  | .little => 0
  | .big => n - w

/-- The register bit that is bit 0 of storage byte `s[j]` (R63). -/
def byteOffset (order : ByteOrder) (n j : Nat) : Nat :=
  match order with
  | .little => 8 * j
  | .big => n - 8 - 8 * j

theorem viewOffset_add_le {n w : Nat} (order : ByteOrder) (hw : w ≤ n) :
    viewOffset order n w + w ≤ n := by
  cases order with
  | little => simpa [viewOffset] using hw
  | big => simp [viewOffset, hw]

/-- R67, bit by bit. -/
theorem viewGet_getLsbD {n w : Nat} (order : ByteOrder) (r : Word) {k : Nat} (hk : k < w) :
    (viewGet order n w r).getLsbD k = r.getLsbD (viewOffset order n w + k) := by
  cases order with
  | little => simp [viewGet_little_getLsbD r hk, viewOffset]
  | big => simp [viewGet_big_getLsbD r hk, viewOffset]

/-- R68 inside the view. -/
theorem viewPut_getLsbD_inside {n w : Nat} (order : ByteOrder) (hw : w ≤ n) (hn : n ≤ 64)
    (r : Word) (v : BitVec w) {k : Nat} (hk : k < w) :
    (viewPut order n w r v).getLsbD (viewOffset order n w + k) = v.getLsbD k := by
  cases order with
  | little => simp [viewPut_little_getLsbD hw hn, viewOffset, hk]
  | big => simp [viewPut_big_getLsbD hw hn, viewOffset]

/-- R68 outside the view: the register's own bits stay. -/
theorem viewPut_getLsbD_outside {n w : Nat} (order : ByteOrder) (hw : w ≤ n) (hn : n ≤ 64)
    (r : Word) (v : BitVec w) {k : Nat} (hkn : k < n)
    (hk : k < viewOffset order n w ∨ viewOffset order n w + w ≤ k) :
    (viewPut order n w r v).getLsbD k = r.getLsbD k := by
  cases order with
  | little =>
    have hwk : ¬ k < w := by simp only [viewOffset] at hk; omega
    simp [viewPut_little_getLsbD hw hn, hwk, hkn]
  | big =>
    have hlow : k < n - w := by simp only [viewOffset] at hk; omega
    simp [viewPut_big_getLsbD hw hn, hlow]

/-- R69 (a). -/
theorem viewGet_viewPut {n w : Nat} (order : ByteOrder) (hw : w ≤ n) (hn : n ≤ 64) (r : Word)
    (v : BitVec w) : viewGet order n w (viewPut order n w r v) = v := by
  apply BitVec.eq_of_getLsbD_eq
  intro k hk
  rw [viewGet_getLsbD order _ hk, viewPut_getLsbD_inside order hw hn r v hk]

theorem getLsbD_of_fits {n : Nat} {x : Word} (hx : fits n x) {k : Nat} (hk : n ≤ k) :
    x.getLsbD k = false := by
  rw [← truncTo_of_lt hx, truncTo_getLsbD]
  simp [hk]

/-- Two values of `n` bits are equal when their low `n` bits are. -/
theorem eq_of_fits {n : Nat} {x y : Word} (hx : fits n x) (hy : fits n y)
    (h : ∀ k < n, x.getLsbD k = y.getLsbD k) : x = y := by
  apply BitVec.eq_of_getLsbD_eq
  intro k _
  by_cases hk : k < n
  · exact h k hk
  · rw [getLsbD_of_fits hx (by omega), getLsbD_of_fits hy (by omega)]

/-- R69 (b). -/
theorem viewPut_viewGet {n w : Nat} (order : ByteOrder) (hw : w ≤ n) (hn : n ≤ 64) {r : Word}
    (hr : fits n r) : viewPut order n w r (viewGet order n w r) = r := by
  refine eq_of_fits (viewPut_lt order hw hn r _) hr fun k hk => ?_
  by_cases hin : viewOffset order n w ≤ k ∧ k < viewOffset order n w + w
  · obtain ⟨j, rfl⟩ := Nat.exists_eq_add_of_le hin.1
    have hj : j < w := by omega
    rw [viewPut_getLsbD_inside order hw hn r _ hj, viewGet_getLsbD order r hj]
  · exact viewPut_getLsbD_outside order hw hn r _ hk (by omega)

/-- A value written twice through the same view is written once: R69 (b) on the value that, by
R69 (a), is there already. -/
theorem viewPut_viewPut {n w : Nat} (order : ByteOrder) (hw : w ≤ n) (hn : n ≤ 64) (r : Word)
    (v : BitVec w) : viewPut order n w (viewPut order n w r v) v = viewPut order n w r v := by
  have h := viewPut_viewGet order hw hn (viewPut_lt order hw hn r v)
  rwa [viewGet_viewPut order hw hn r v] at h

/-- R69 (d): a narrower view lies inside a wider one at its own offset in a register of that
width. -/
theorem viewGet_eq_extractLsb'_viewGet {n w₁ w₂ : Nat} (order : ByteOrder) (h₁ : w₁ ≤ w₂)
    (h₂ : w₂ ≤ n) (r : Word) :
    viewGet order n w₁ r
      = (viewGet order n w₂ r).extractLsb' (viewOffset order w₂ w₁) w₁ := by
  have hin := viewOffset_add_le order h₁
  have hoff : viewOffset order n w₁ = viewOffset order n w₂ + viewOffset order w₂ w₁ := by
    cases order with
    | little => rfl
    | big => simp only [viewOffset]; omega
  apply BitVec.eq_of_getLsbD_eq
  intro k hk
  have hk₂ : viewOffset order w₂ w₁ + k < w₂ := by omega
  rw [viewGet_getLsbD order r hk, BitVec.getLsbD_extractLsb', viewGet_getLsbD order r hk₂, hoff,
    Nat.add_assoc]
  simp [hk]

/-- R63, bit by bit. -/
theorem storageByte_getLsbD (order : ByteOrder) (n : Nat) (r : Word) (j : Nat) {b : Nat}
    (hb : b < 8) : (storageByte order n r j).getLsbD b = r.getLsbD (byteOffset order n j + b) := by
  cases order with
  | little => simp [storageByte, byteOffset, hb]
  | big => simp [storageByte, byteOffset, hb]

theorem byteOffset_add_le {nb j : Nat} (order : ByteOrder) (hj : j < nb) :
    byteOffset order (8 * nb) j + 8 ≤ 8 * nb := by
  cases order with
  | little => simp only [byteOffset]; omega
  | big => simp only [byteOffset]; omega

/-- R70: the view of `k` bytes occupies `s[0..k-1]`, in their order. -/
theorem byteOffset_of_mem_view {nb k j : Nat} (order : ByteOrder) (hk : k ≤ nb) (hj : j < k) :
    byteOffset order (8 * nb) j
      = viewOffset order (8 * nb) (8 * k) + byteOffset order (8 * k) j := by
  cases order with
  | little => simp [byteOffset, viewOffset]
  | big => simp only [byteOffset, viewOffset]; omega

/-- R70: the bytes from `s[k]` on lie outside the view of `k` bytes. -/
theorem byteOffset_outside_view {nb k j : Nat} (order : ByteOrder) (hk : k ≤ j) (hj : j < nb) :
    byteOffset order (8 * nb) j + 8 ≤ viewOffset order (8 * nb) (8 * k)
      ∨ viewOffset order (8 * nb) (8 * k) + 8 * k ≤ byteOffset order (8 * nb) j := by
  cases order with
  | little => simp only [byteOffset, viewOffset]; omega
  | big => simp only [byteOffset, viewOffset]; omega

end Sys2Proof.Machine
end

section
/-! PROOF of O12 (R69). The laws hold of every register width up to the 64 bits of a `Word`. -/

namespace Sys2Proof.Machine

/-- Settles O12: the laws of R69 for widths up to 64, at the two widths of a register. -/
theorem viewLaws : Obligations.ViewLaws := by
  intro n r hmem hr
  have hn : n ≤ 64 := by
    simp only [List.mem_cons, List.not_mem_nil, or_false] at hmem
    omega
  exact ⟨fun order w v hw => ⟨viewGet_viewPut order hw hn r v, viewPut_viewGet order hw hn hr⟩,
    fun order v => viewGet_viewPut order le_rfl hn r v,
    fun w₁ w₂ h₁ h₂ => ⟨viewGet_eq_extractLsb'_viewGet .little h₁ h₂ r,
      viewGet_eq_extractLsb'_viewGet .big h₁ h₂ r⟩⟩

end Sys2Proof.Machine
end

section
/-! PROOF of O13 (R70). A byte of the view is a byte of the register, because the offset of the byte
in the register is that of the view plus that of the byte in the view. -/

namespace Sys2Proof.Machine

/-- R70: what a view reads are the leading storage bytes. -/
theorem storageByte_viewGet {nb k j : Nat} (order : ByteOrder) (hnb : nb ≤ 8) (hk : k ≤ nb)
    (hj : j < k) (r : Word) :
    storageByte order (8 * k) ((viewGet order (8 * nb) (8 * k) r).setWidth 64) j
      = storageByte order (8 * nb) r j := by
  have hin := byteOffset_add_le order hj
  apply BitVec.eq_of_getLsbD_eq
  intro b hb
  have hbit : byteOffset order (8 * k) j + b < 8 * k := by omega
  have h64 : byteOffset order (8 * k) j + b < 64 := by omega
  simp [storageByte_getLsbD _ _ _ _ hb, h64, viewGet_getLsbD order r hbit,
    byteOffset_of_mem_view order hk hj, Nat.add_assoc]

/-- R70: what a view writes are the leading storage bytes; by R69 (a) they are those then read. -/
theorem storageByte_viewPut_inside {nb k j : Nat} (order : ByteOrder) (hnb : nb ≤ 8)
    (hk : k ≤ nb) (hj : j < k) (r : Word) (v : BitVec (8 * k)) :
    storageByte order (8 * nb) (viewPut order (8 * nb) (8 * k) r v) j
      = storageByte order (8 * k) (v.setWidth 64) j := by
  rw [← storageByte_viewGet order hnb hk hj, viewGet_viewPut order (by omega) (by omega)]

/-- R68, R70: a write through a view leaves the bytes after it. -/
theorem storageByte_viewPut_outside {nb k j : Nat} (order : ByteOrder) (hnb : nb ≤ 8)
    (hkj : k ≤ j) (hj : j < nb) (r : Word) (v : BitVec (8 * k)) :
    storageByte order (8 * nb) (viewPut order (8 * nb) (8 * k) r v) j
      = storageByte order (8 * nb) r j := by
  have hin := byteOffset_add_le order hj
  have hout := byteOffset_outside_view order hkj hj
  apply BitVec.eq_of_getLsbD_eq
  intro b hb
  rw [storageByte_getLsbD _ _ _ _ hb, storageByte_getLsbD _ _ _ _ hb,
    viewPut_getLsbD_outside order (by omega) (by omega) r v (by omega) (by omega)]

/-- Settles O13: the bytes inside the view by their offsets, the others by R68. -/
theorem viewsAreLeadingStorageBytes : Obligations.ViewsAreLeadingStorageBytes := by
  intro order nb k j r v hmem hk
  have hnb : nb ≤ 8 := by
    simp only [List.mem_cons, List.not_mem_nil, or_false] at hmem
    omega
  exact ⟨fun hj => ⟨(storageByte_viewGet order hnb hk hj r).symm,
      storageByte_viewPut_inside order hnb hk hj r v⟩,
    fun hkj hj => storageByte_viewPut_outside order hnb hkj hj r v⟩

end Sys2Proof.Machine
end

section
/-! SUPPORT. The error response of each register access that does not exist, and what a second
update of the same element leaves. -/

namespace Sys2Proof.Machine

theorem readIreg_of_defect {size : Size} {i : RegIdx} {s : State} {e : ErrCode} (sign : Sign)
    (h : iregDefect s size.bits i = some e) :
    readIreg size sign i s = .next (s.respond 0 e 0) := by
  rw [readIreg, h]; rfl

theorem writeIreg_of_defect {size : Size} {i : RegIdx} {s : State} {e : ErrCode}
    (h : iregDefect s size.bits i = some e) :
    writeIreg size i s = .next (s.respond 0 e 0) := by
  rw [writeIreg, h]; rfl

theorem readFreg_of_defect {view : FView} {i : RegIdx} {s : State} {e : ErrCode}
    (h : fregDefect s (view.bits s.cfg.flen) i = some e) :
    readFreg view i s = .next (s.respond 0 e 0) := by
  rw [readFreg, h]; rfl

theorem writeFreg_of_defect {view : FView} {i : RegIdx} {s : State} {e : ErrCode}
    (h : fregDefect s (view.bits s.cfg.flen) i = some e) :
    writeFreg view i s = .next (s.respond 0 e 0) := by
  rw [writeFreg, h]; rfl

theorem State.xlen_le_64 (s : State) : s.xlen ≤ 64 := by
  rw [State.xlen]
  cases s.cfg.xlen <;> decide

theorem State.flen_le_64 (s : State) : s.flen ≤ 64 := by
  rw [State.flen]
  cases s.cfg.flen <;> decide

@[simp] theorem setIreg_xlen (s : State) (i : RegIdx) (v : Word) :
    (s.setIreg i v).xlen = s.xlen := rfl

@[simp] theorem setFreg_flen (s : State) (i : RegIdx) (v : Word) :
    (s.setFreg i v).flen = s.flen := rfl

@[simp] theorem setIreg_setIreg (s : State) (i : RegIdx) (v v' : Word) :
    (s.setIreg i v).setIreg i v' = s.setIreg i v' := by
  simp [State.setIreg]

@[simp] theorem setFreg_setFreg (s : State) (i : RegIdx) (v v' : Word) :
    (s.setFreg i v).setFreg i v' = s.setFreg i v' := by
  simp [State.setFreg]

@[simp] theorem setScalar_setScalar (s : State) (f : Scalar) (v v' : Word) :
    (s.setScalar f v).setScalar f v' = s.setScalar f v' := by
  cases f <;> rfl

end Sys2Proof.Machine
end

section
/-! PROOF of O30 (R75). A command is performed by one shared operation. An operation other than the
take absorbs itself: it responds in a state in which it would give the very same answer. -/

namespace Sys2Proof.Machine

/-- The operations of Machine/Ops.lean that perform the commands other than `FRC.TAKE`, with the
`wr` bit of the commands they perform (R94). -/
inductive Performs : Bool → (State → Out) → Prop where
  | readsIreg (size : Size) (sign : Sign) (i : RegIdx) : Performs false (readIreg size sign i)
  | writesIreg (size : Size) (i : RegIdx) : Performs true (writeIreg size i)
  | readsFreg (view : FView) (i : RegIdx) : Performs false (readFreg view i)
  | writesFreg (view : FView) (i : RegIdx) : Performs true (writeFreg view i)
  | readsScalar (f : Scalar) : Performs false (readScalar f)
  | writesScalar (f : Scalar) : Performs true (writeScalar f)
  | establishes : Performs true establishRecovery
  | nothing : Performs false (respondOk 0)

theorem Performs.of_c16 {cls : BitVec 4} {wr : Bool} {view : BitVec 3} {idx : RegIdx}
    {op : State → Out} (h : Performs wr op) : Performs (fieldWr (c16 cls wr view idx)) op := by
  rwa [fieldWr_c16]

theorem exec_performs (i : Instr) (htake : i ≠ .frcTake) :
    Performs (fieldWr (encode i)) (exec i) := by
  cases i with
  | irdB idx => exact .of_c16 (.readsIreg .byte .signed idx)
  | irdH idx => exact .of_c16 (.readsIreg .half .signed idx)
  | irdW idx => exact .of_c16 (.readsIreg .word .signed idx)
  | irdD idx => exact .of_c16 (.readsIreg .wide .signed idx)
  | irdBU idx => exact .of_c16 (.readsIreg .byte .unsigned idx)
  | irdHU idx => exact .of_c16 (.readsIreg .half .unsigned idx)
  | irdWU idx => exact .of_c16 (.readsIreg .word .unsigned idx)
  | irdDU idx => exact .of_c16 (.readsIreg .wide .unsigned idx)
  | iwrB idx => exact .of_c16 (.writesIreg .byte idx)
  | iwrH idx => exact .of_c16 (.writesIreg .half idx)
  | iwrW idx => exact .of_c16 (.writesIreg .word idx)
  | iwrD idx => exact .of_c16 (.writesIreg .wide idx)
  | iwrBU idx => exact .of_c16 (.writesIreg .byte idx)
  | iwrHU idx => exact .of_c16 (.writesIreg .half idx)
  | iwrWU idx => exact .of_c16 (.writesIreg .word idx)
  | iwrDU idx => exact .of_c16 (.writesIreg .wide idx)
  | frdX idx => exact .of_c16 (.readsFreg .raw idx)
  | frdXU idx => exact .of_c16 (.readsFreg .rawUnsigned idx)
  | frdS idx => exact .of_c16 (.readsFreg .single idx)
  | frdD idx => exact .of_c16 (.readsFreg .double idx)
  | fwrX idx => exact .of_c16 (.writesFreg .raw idx)
  | fwrXU idx => exact .of_c16 (.writesFreg .rawUnsigned idx)
  | fwrS idx => exact .of_c16 (.writesFreg .single idx)
  | fwrD idx => exact .of_c16 (.writesFreg .double idx)
  | srdPc => exact .of_c16 (.readsScalar .pc)
  | swrPc => exact .of_c16 (.writesScalar .pc)
  | srdNode => exact .of_c16 (.readsScalar .nodeId)
  | swrNode => exact .of_c16 (.writesScalar .nodeId)
  | srdHart => exact .of_c16 (.readsScalar .hartId)
  | swrHart => exact .of_c16 (.writesScalar .hartId)
  | srdLog => exact .of_c16 (.readsScalar .log)
  | swrLog => exact .of_c16 (.writesScalar .log)
  | srdLr => exact .of_c16 (.readsScalar .lr)
  | swrLr => exact .of_c16 (.writesScalar .lr)
  | srdFault => exact .of_c16 (.readsScalar .faultAddr)
  | swrFault => exact .of_c16 (.writesScalar .faultAddr)
  | srdTime => exact .of_c16 (.readsScalar .time)
  | swrTime => exact .of_c16 (.writesScalar .time)
  | srdCycle => exact .of_c16 (.readsScalar .cycle)
  | swrCycle => exact .of_c16 (.writesScalar .cycle)
  | srdInstret => exact .of_c16 (.readsScalar .instret)
  | swrInstret => exact .of_c16 (.writesScalar .instret)
  | srdFcsr => exact .of_c16 (.readsScalar .fcsr)
  | swrFcsr => exact .of_c16 (.writesScalar .fcsr)
  | frcTake => exact absurd rfl htake
  | frcSet => exact .of_c16 .establishes
  | nop => exact .of_c16 .nothing

/-- R51: no operation reads the last response. -/
theorem Performs.respond_absorbed {wr : Bool} {op : State → Out} (h : Performs wr op) (s : State)
    (d : Word) (e : ErrCode) (p : Snapshot) : op (s.respond d e p) = op s := by
  cases h <;> rfl

/-- `op` completes in `s` and, in the state `s'` it responds in, would answer the same; a read
(`wr = 0`) responds in `s` itself. -/
def Absorbs (wr : Bool) (op : State → Out) (s : State) : Prop :=
  ∃ (s' : State) (d : Word) (e : ErrCode),
    op s = .next (s'.respond d e 0) ∧ op s' = op s ∧ (wr = false → s' = s)

/-- An operation that only responds absorbs itself. -/
theorem Absorbs.of_responds {wr : Bool} {op : State → Out} {s : State} {d : Word} {e : ErrCode}
    (h : op s = .next (s.respond d e 0)) : Absorbs wr op s :=
  ⟨s, d, e, h, rfl, fun _ => rfl⟩

/-- A write absorbs itself when it answers the same in the state written. -/
theorem Absorbs.of_writes {op : State → Out} {s s' : State} {d : Word}
    (h : op s = .next (s'.respond d .ok 0)) (h' : op s' = .next (s'.respond d .ok 0)) :
    Absorbs true op s :=
  ⟨s', d, .ok, h, h'.trans h.symm, nofun⟩

theorem readIreg_absorbs (size : Size) (sign : Sign) (i : RegIdx) (s : State) :
    Absorbs false (readIreg size sign i) s := by
  cases h : iregDefect s size.bits i with
  | some e => exact .of_responds (readIreg_of_defect _ h)
  | none =>
    obtain ⟨hw, hi⟩ := iregDefect_eq_none.mp h
    exact .of_responds (readIreg_of_exists sign hw hi)

theorem readFreg_absorbs (view : FView) (i : RegIdx) (s : State) :
    Absorbs false (readFreg view i) s := by
  cases h : fregDefect s (view.bits s.cfg.flen) i with
  | some e => exact .of_responds (readFreg_of_defect h)
  | none =>
    obtain ⟨hw, hi⟩ := fregDefect_eq_none.mp h
    exact .of_responds (readFreg_of_exists hw hi)

/-- The second write of a register finds the value the first wrote (viewPut_viewPut). -/
theorem writeIreg_absorbs (size : Size) (i : RegIdx) (s : State) :
    Absorbs true (writeIreg size i) s := by
  cases h : iregDefect s size.bits i with
  | some e => exact .of_responds (writeIreg_of_defect h)
  | none =>
    obtain ⟨hw, hi⟩ := iregDefect_eq_none.mp h
    refine .of_writes (writeIreg_of_exists hw hi)
      ((writeIreg_of_exists (s := s.setIreg i _) hw hi).trans ?_)
    simp [viewPut_viewPut s.cfg.order hw s.xlen_le_64]

theorem writeFreg_absorbs (view : FView) (i : RegIdx) (s : State) :
    Absorbs true (writeFreg view i) s := by
  cases h : fregDefect s (view.bits s.cfg.flen) i with
  | some e => exact .of_responds (writeFreg_of_defect h)
  | none =>
    obtain ⟨hw, hi⟩ := fregDefect_eq_none.mp h
    refine .of_writes (writeFreg_of_exists hw hi)
      ((writeFreg_of_exists (s := s.setFreg i _) hw hi).trans ?_)
    simp [viewPut_viewPut s.cfg.order hw s.flen_le_64]

theorem writeScalar_absorbs (f : Scalar) (s : State) : Absorbs true (writeScalar f) s := by
  refine .of_writes (writeScalar_eq f s) ((writeScalar_eq f _).trans ?_)
  rw [setScalar_port, setScalar_setScalar]

theorem Performs.absorbs {wr : Bool} {op : State → Out} (h : Performs wr op) (s : State) :
    Absorbs wr op s := by
  cases h with
  | readsIreg size sign i => exact readIreg_absorbs size sign i s
  | writesIreg size i => exact writeIreg_absorbs size i s
  | readsFreg view i => exact readFreg_absorbs view i s
  | writesFreg view i => exact writeFreg_absorbs view i s
  | readsScalar f => exact .of_responds (readScalar_eq f s)
  | writesScalar f => exact writeScalar_absorbs f s
  | establishes => exact .of_writes (establishRecovery_eq s) rfl
  | nothing => exact .of_responds (respondOk_eq 0 s)

/-- R75: an operation other than the take, issued again, gives the same state and response. -/
theorem Performs.repeats {wr : Bool} {op : State → Out} (h : Performs wr op) {s t : State}
    (ht : op s = .next t) : op t = .next t := by
  obtain ⟨s', d, e, hs, hs', -⟩ := h.absorbs s
  obtain rfl : s'.respond d e 0 = t := Host.Outcome.next.inj (hs.symm.trans ht)
  calc op (s'.respond d e 0) = op s' := h.respond_absorbed s' d e 0
    _ = op s := hs'
    _ = .next (s'.respond d e 0) := hs

/-- R75: a read changes no element of the block. -/
theorem Performs.arch_of_read {op : State → Out} (h : Performs false op) {s t : State}
    (ht : op s = .next t) : t.arch = s.arch := by
  obtain ⟨s', d, e, hs, -, hread⟩ := h.absorbs s
  obtain rfl : s'.respond d e 0 = t := Host.Outcome.next.inj (hs.symm.trans ht)
  rw [respond_arch, hread rfl]

/-- R182: whether or not there was a recovery point, there is none after a take. -/
theorem frc_of_takeRecovery {s t : State} (h : takeRecovery s = .next t) : t.arch.frc = none := by
  cases hf : s.arch.frc with
  | none =>
    obtain rfl := Host.Outcome.next.inj ((takeRecovery_none hf).symm.trans h)
    exact hf
  | some p =>
    obtain rfl := Host.Outcome.next.inj ((takeRecovery_some hf).symm.trans h)
    rfl

/-- Settles O30: every command but the take is performed by an operation that absorbs itself; the
second take finds no recovery point. -/
theorem commandsAreIdempotentExceptTake : Obligations.CommandsAreIdempotentExceptTake := by
  refine ⟨fun i s t htake h => (exec_performs i htake).repeats h, ?read,
    fun s t h => takeRecovery_none (frc_of_takeRecovery h)⟩
  case read =>
    intro i s t h hwr htake
    have hp := exec_performs i htake
    rw [hwr] at hp
    exact hp.arch_of_read h

end Sys2Proof.Machine
end

section
/-! SUPPORT. The fields of a command word as parts of its number (R93), the defects of R104 in these
numbers, and the forms `c16` of the words without a field defect. -/

namespace Sys2Proof

theorem fieldClass_toNat (c : Cmd) : (fieldClass c).toNat = c.toNat / 4096 := by
  simp only [fieldClass, BitVec.extractLsb'_toNat, Nat.shiftRight_eq_div_pow]
  omega

theorem fieldWr_iff (c : Cmd) : fieldWr c = true ↔ c.toNat / 2048 % 2 ≠ 0 := by
  simp [fieldWr, BitVec.getLsbD, Nat.testBit_eq_decide_div_mod_eq]

theorem fieldView_toNat (c : Cmd) : (fieldView c).toNat = c.toNat / 256 % 8 := by
  simp [fieldView, Nat.shiftRight_eq_div_pow]

theorem fieldZero_toNat (c : Cmd) : (fieldZero c).toNat = c.toNat / 32 % 8 := by
  simp [fieldZero, Nat.shiftRight_eq_div_pow]

theorem fieldIdx_val (c : Cmd) : (fieldIdx c).val = c.toNat % 32 := by
  simp [fieldIdx]

/-- R97: `8 << view[1:0]`. -/
theorem iviewBits_eq (view : BitVec 3) : iviewBits view = 8 * 2 ^ (view.toNat % 4) := by
  simp [iviewBits, Nat.shiftLeft_eq]

/-- Step 2 of R104. -/
theorem fieldDefect_iff (c : Cmd) : fieldDefect c = true ↔
    c.toNat / 32 % 8 ≠ 0
    ∨ (c.toNat / 4096 = 0
      ∧ (c.toNat / 2048 % 2 ≠ 0 ∨ c.toNat / 256 % 8 ≠ 0 ∨ c.toNat % 32 ≠ 0))
    ∨ (c.toNat / 4096 = 3 ∧ c.toNat / 256 % 8 ≠ 0)
    ∨ (c.toNat / 4096 = 4 ∧ (c.toNat / 256 % 8 ≠ 0 ∨ c.toNat % 32 ≠ 0)) := by
  simp [fieldDefect, ← BitVec.toNat_inj, Fin.ext_iff, fieldWr_iff, fieldClass_toNat,
    fieldView_toNat, fieldZero_toNat, fieldIdx_val, or_assoc]

/-- Step 3 of R104. -/
theorem viewDefect_iff (cfg : Config) (c : Cmd) : viewDefect cfg c = true ↔
    (c.toNat / 4096 = 1 ∧ 8 * 2 ^ (c.toNat / 256 % 8 % 4) > cfg.xlen.bits)
    ∨ (c.toNat / 4096 = 2 ∧ c.toNat / 256 % 8 ≥ 4)
    ∨ (c.toNat / 4096 = 2 ∧ c.toNat / 256 % 8 = 3 ∧ cfg.flen = .f32) := by
  simp [viewDefect, ← BitVec.toNat_inj, iviewBits_eq, fieldClass_toNat, fieldView_toNat,
    or_assoc, and_assoc]

/-- Step 4 of R104. -/
theorem indexDefect_iff (cfg : Config) (c : Cmd) : indexDefect cfg c = true ↔
    (c.toNat / 4096 = 1 ∧ c.toNat % 32 ≥ cfg.iregCount)
    ∨ (c.toNat / 4096 = 2 ∧ c.toNat % 32 ≥ cfg.fregCount)
    ∨ (c.toNat / 4096 = 3 ∧ c.toNat % 32 ≥ 10) := by
  simp [indexDefect, ← BitVec.toNat_inj, fieldClass_toNat, fieldIdx_val, or_assoc]

/-- R93: the five fields make up the whole word. -/
theorem eq_of_fields {c d : Cmd} (hcls : fieldClass c = fieldClass d) (hwr : fieldWr c = fieldWr d)
    (hview : fieldView c = fieldView d) (hzero : fieldZero c = fieldZero d)
    (hidx : fieldIdx c = fieldIdx d) : c = d := by
  have hwr : c.toNat / 2048 % 2 ≠ 0 ↔ d.toNat / 2048 % 2 ≠ 0 := by
    rw [← fieldWr_iff, ← fieldWr_iff, hwr]
  rw [← BitVec.toNat_inj, fieldClass_toNat, fieldClass_toNat] at hcls
  rw [← BitVec.toNat_inj, fieldView_toNat, fieldView_toNat] at hview
  rw [← BitVec.toNat_inj, fieldZero_toNat, fieldZero_toNat] at hzero
  rw [Fin.ext_iff, fieldIdx_val, fieldIdx_val] at hidx
  apply BitVec.eq_of_toNat_eq
  omega

theorem c16_fields {c : Cmd} (hzero : fieldZero c = 0#3) :
    c16 (fieldClass c) (fieldWr c) (fieldView c) (fieldIdx c) = c :=
  eq_of_fields (fieldClass_c16 ..) (fieldWr_c16 ..) (fieldView_c16 ..)
    ((fieldZero_c16 ..).trans hzero.symm) (fieldIdx_c16 ..)

/-- The words of the five classes whose must-be-zero fields are zero (R94, R95), with the fields
they leave open. -/
inductive FieldForm : Cmd → Prop where
  | nop : FieldForm (c16 0 false 0 0)
  | ireg (wr : Bool) (view : BitVec 3) (idx : RegIdx) : FieldForm (c16 1 wr view idx)
  | freg (wr : Bool) (view : BitVec 3) (idx : RegIdx) : FieldForm (c16 2 wr view idx)
  | sreg (wr : Bool) (idx : RegIdx) : FieldForm (c16 3 wr 0 idx)
  | frc (wr : Bool) : FieldForm (c16 4 wr 0 0)

theorem fieldForm_of_no_fieldDefect {c : Cmd} (hcls : (fieldClass c).toNat < 5)
    (hfield : ¬ fieldDefect c = true) : FieldForm c := by
  have hzero : fieldZero c = 0#3 := by
    by_contra hne
    simp [fieldDefect, hne] at hfield
  rw [← c16_fields hzero] at hcls hfield ⊢
  generalize fieldClass c = cls, fieldWr c = wr, fieldView c = view, fieldIdx c = idx at *
  rw [fieldClass_c16] at hcls
  obtain rfl | rfl | rfl | rfl | rfl : cls = 0 ∨ cls = 1 ∨ cls = 2 ∨ cls = 3 ∨ cls = 4 := by
    bv_omega
  · obtain ⟨rfl, rfl, rfl⟩ : wr = false ∧ view = 0 ∧ idx = 0 := by
      simpa [fieldDefect, and_assoc] using hfield
    exact .nop
  · exact .ireg wr view idx
  · exact .freg wr view idx
  · obtain rfl : view = 0 := by simpa [fieldDefect] using hfield
    exact .sreg wr idx
  · obtain ⟨rfl, rfl⟩ : view = 0 ∧ idx = 0 := by simpa [fieldDefect] using hfield
    exact .frc wr

end Sys2Proof
end

section
/-! SUPPORT. On the words without a field defect, the opcode map (R100 to R103) has the row of the
command that the fields spell. -/

namespace Sys2Proof

/-- `0xFFE0` masks out the register index only. -/
theorem c16_and_mask (cls : BitVec 4) (wr : Bool) (view : BitVec 3) (idx : RegIdx) :
    c16 cls wr view idx &&& 0xFFE0 = c16 cls wr view 0 := by
  have hmask : ∀ i < 16, (0xFFE0 : Cmd).getLsbD i = decide (5 ≤ i) := by decide
  apply BitVec.eq_of_getLsbD_eq
  intro i hi
  rw [BitVec.getLsbD_and, hmask i hi, c16_getLsbD, c16_getLsbD]
  by_cases h5 : i < 5
  · simp [h5]
  · simp [h5, Nat.le_of_not_lt h5]

theorem exists_ofNat_of_toNat_lt {n : Nat} {view : BitVec 3} (h : view.toNat < n) :
    ∃ v < n, view = BitVec.ofNat 3 v :=
  ⟨view.toNat, h, by simp⟩

/-- The rows of R100 and R101 do not look at the index, so they are found by the word of index 0. -/
theorem rowCommand_c16 (cls : BitVec 4) (wr : Bool) (view : BitVec 3) (idx : RegIdx) :
    rowCommand (c16 cls wr view idx) =
      (((iregRows ++ fregRows).find? fun r => c16 cls wr view 0 == r.matchBits).or
        ((sregRows ++ frcNopRows).find? fun r => c16 cls wr view idx &&& r.mask == r.matchBits)).map
        fun r => r.build idx := by
  have hmask : ∀ r ∈ iregRows ++ fregRows, r.mask = 0xFFE0 := by simp [iregRows, fregRows]
  rw [rowCommand, opcodeRows, List.append_assoc, List.find?_append, fieldIdx_c16,
    List.find?_congr fun r hr => by rw [hmask r hr, c16_and_mask]]

theorem rowCommand_c16_ireg (wr : Bool) (view : BitVec 3) (idx : RegIdx) :
    rowCommand (c16 1 wr view idx) = spellIreg wr view.toNat idx := by
  obtain ⟨v, hv, rfl⟩ := exists_ofNat_of_toNat_lt view.isLt
  rw [rowCommand_c16]
  cases wr <;> interval_cases v <;> rfl

theorem rowCommand_c16_freg (wr : Bool) {view : BitVec 3} (hview : view.toNat < 4) (idx : RegIdx) :
    rowCommand (c16 2 wr view idx) = spellFreg wr view.toNat idx := by
  obtain ⟨v, hv, rfl⟩ := exists_ofNat_of_toNat_lt hview
  rw [rowCommand_c16]
  cases wr <;> interval_cases v <;> rfl

theorem rowCommand_c16_sreg : ∀ (wr : Bool) (idx : RegIdx),
    rowCommand (c16 3 wr 0 idx) = spellSreg wr idx.val := by decide

theorem rowCommand_c16_frc (wr : Bool) :
    rowCommand (c16 4 wr 0 0) = some (if wr then .frcSet else .frcTake) := by
  cases wr <;> decide

theorem rowCommand_c16_nop : rowCommand (c16 0 false 0 0) = some .nop := by decide

theorem spellIreg_isSome (wr : Bool) {view : Nat} (hview : view < 8) (idx : RegIdx) :
    ∃ i, spellIreg wr view idx = some i := by
  cases wr <;> interval_cases view <;> exact ⟨_, rfl⟩

theorem spellFreg_isSome (wr : Bool) {view : Nat} (hview : view < 4) (idx : RegIdx) :
    ∃ i, spellFreg wr view idx = some i := by
  cases wr <;> interval_cases view <;> exact ⟨_, rfl⟩

theorem spellSreg_isSome (wr : Bool) {idx : Nat} (hidx : idx < 10) :
    ∃ i, spellSreg wr idx = some i := by
  cases wr <;> interval_cases idx <;> exact ⟨_, rfl⟩

/-- Step 5 of R104: a word that passes every test spells a command, the one of its row. -/
theorem exists_command_of_no_defect {cfg : Config} {c : Cmd} (hcls : (fieldClass c).toNat < 5)
    (hfield : ¬ fieldDefect c = true) (hview : ¬ viewDefect cfg c = true)
    (hindex : ¬ indexDefect cfg c = true) : ∃ i, spell c = some i ∧ rowCommand c = some i := by
  cases fieldForm_of_no_fieldDefect hcls hfield with
  | nop => exact ⟨.nop, rfl, rowCommand_c16_nop⟩
  | ireg wr view idx =>
    obtain ⟨i, hi⟩ := spellIreg_isSome wr view.isLt idx
    exact ⟨i, by simp [spell, hi], by rw [rowCommand_c16_ireg, hi]⟩
  | freg wr view idx =>
    obtain ⟨hlt, -⟩ : view.toNat < 4 ∧ (view = 3#3 → ¬ cfg.flen = .f32) := by
      simpa [viewDefect] using hview
    obtain ⟨i, hi⟩ := spellFreg_isSome wr hlt idx
    exact ⟨i, by simp [spell, hi], by rw [rowCommand_c16_freg wr hlt, hi]⟩
  | sreg wr idx =>
    have hlt : idx.val < 10 := by simpa [indexDefect] using hindex
    obtain ⟨i, hi⟩ := spellSreg_isSome wr hlt
    exact ⟨i, by simp [spell, hi], by rw [rowCommand_c16_sreg, hi]⟩
  | frc wr => exact ⟨_, by simp [spell], rowCommand_c16_frc wr⟩

end Sys2Proof
end

section
/-! SUPPORT. What the decoder answers, by the first test of R104 that a word fails. -/

namespace Sys2Proof

variable {cfg : Config} {c : Cmd}

theorem decode_of_class (hcls : 5 ≤ (fieldClass c).toNat) :
    decode cfg c = .error .errClass := by
  rw [decode, if_pos hcls]

theorem decode_of_fieldDefect (hcls : (fieldClass c).toNat < 5) (hfield : fieldDefect c = true) :
    decode cfg c = .error .errField := by
  rw [decode, if_neg hcls.not_ge, if_pos hfield]

theorem decode_of_viewDefect (hcls : (fieldClass c).toNat < 5) (hfield : ¬ fieldDefect c = true)
    (hview : viewDefect cfg c = true) : decode cfg c = .error .errView := by
  rw [decode, if_neg hcls.not_ge, if_neg hfield, if_pos hview]

theorem decode_of_indexDefect (hcls : (fieldClass c).toNat < 5) (hfield : ¬ fieldDefect c = true)
    (hview : ¬ viewDefect cfg c = true) (hindex : indexDefect cfg c = true) :
    decode cfg c = .error .errIndex := by
  rw [decode, if_neg hcls.not_ge, if_neg hfield, if_neg hview, if_pos hindex]

theorem decode_of_no_defect (hcls : (fieldClass c).toNat < 5) (hfield : ¬ fieldDefect c = true)
    (hview : ¬ viewDefect cfg c = true) (hindex : ¬ indexDefect cfg c = true) :
    ∃ i, decode cfg c = .ok i ∧ rowCommand c = some i := by
  obtain ⟨i, hspell, hrow⟩ := exists_command_of_no_defect hcls hfield hview hindex
  refine ⟨i, ?_, hrow⟩
  rw [decode, if_neg hcls.not_ge, if_neg hfield, if_neg hview, if_neg hindex, hspell, spelled]

theorem spelled_ne_errNoRecovery (i : Option Instr) : spelled i ≠ .error .errNoRecovery := by
  cases i <;> simp [spelled]

/-- R191: `ERR_NO_RECOVERY` is never a decoding error. -/
theorem decode_ne_errNoRecovery (cfg : Config) (c : Cmd) :
    decode cfg c ≠ .error .errNoRecovery := by
  unfold decode
  split_ifs
  case neg => exact spelled_ne_errNoRecovery _
  all_goals simp

end Sys2Proof
end

section
/-! PROOF of O19 (R104). The tests of the decoder are those of the statement, read off the word as a
number; a word that passes them all has one of the forms `FieldForm`, and on each the opcode map has
the row of the command that the fields spell. -/

namespace Sys2Proof.Machine

/-- R192: a cycle that presents a word with a decoding error only answers it. -/
theorem step_of_decode_error {s : State} {e : ErrCode} (hrst : s.takeCycle.port.rst = false)
    (hvalid : s.takeCycle.port.cmdValid = true)
    (hdecode : decode s.cfg s.takeCycle.port.cmd = .error e) :
    step s = .next (s.takeCycle.respond 0 e 0) := by
  obtain ⟨hr, -⟩ | ⟨i, -, -, hi, -⟩ | ⟨e', -, -, he, hstep⟩ | ⟨-, hv, -⟩ := step_cases s
  · simp [hrst] at hr
  · simp [hdecode] at hi
  · obtain rfl : e = e' := by simpa [hdecode] using he
    exact hstep
  · simp [hvalid] at hv

/-- Settles O19: the conditions on the number are the decoder's tests, which it takes in this order;
the cycle is the one of a decoding error; 0x23E0 has a field defect. -/
theorem decodeErrorsInOrder : Obligations.DecodeErrorsInOrder := by
  refine ⟨fun cfg c => ?words, fun s e hrst hvalid hdecode =>
    ⟨_, step_of_decode_error hrst hvalid hdecode, takeCycle_arch s, rfl⟩,
    fun cfg => decode_of_fieldDefect (by decide) (by decide)⟩
  case words =>
    simp only [← fieldDefect_iff, ← viewDefect_iff cfg c, ← indexDefect_iff]
    simp only [← fieldClass_toNat]
    exact ⟨decode_of_class, decode_of_fieldDefect, decode_of_viewDefect, decode_of_indexDefect,
      decode_of_no_defect, decode_ne_errNoRecovery cfg c⟩

end Sys2Proof.Machine
end

section
/-! SUPPORT. The integer register commands by the size and the signedness of their view: the code of
the view (R97), the word of the command (R100), and the decoder's answer together with the effect,
where the view exists and where it is wider than the register. -/

namespace Sys2Proof

/-- R93: the index occupies the low five bits, which the word of index 0 leaves clear. -/
theorem c16_zero_or_idx (cls : BitVec 4) (wr : Bool) (view : BitVec 3) (idx : RegIdx) :
    c16 cls wr view 0 ||| BitVec.ofNat 16 idx.val = c16 cls wr view idx := by
  apply BitVec.eq_of_getLsbD_eq
  intro k hk
  rw [BitVec.getLsbD_or, c16_getLsbD, c16_getLsbD, BitVec.getLsbD_ofNat]
  by_cases h5 : k < 5
  · simp [h5, hk]
  · have hpow : 2 ^ 5 ≤ 2 ^ k := Nat.pow_le_pow_right two_pos (Nat.le_of_not_lt h5)
    simp [h5, Nat.testBit_lt_two_pow (idx.isLt.trans_le hpow)]

end Sys2Proof

namespace Sys2Proof.Machine

/-- The code of an integer view (R97): `view[2]` is set for an unsigned view, `view[1:0]` is the
size. -/
def Size.viewCode : Size → Sign → BitVec 3
  | .byte, .signed => 0
  | .half, .signed => 1
  | .word, .signed => 2
  | .wide, .signed => 3
  | .byte, .unsigned => 4
  | .half, .unsigned => 5
  | .word, .unsigned => 6
  | .wide, .unsigned => 7

/-- The `IRD` command of a view (R100). -/
def Size.ird : Size → Sign → RegIdx → Instr
  | .byte, .signed => .irdB
  | .half, .signed => .irdH
  | .word, .signed => .irdW
  | .wide, .signed => .irdD
  | .byte, .unsigned => .irdBU
  | .half, .unsigned => .irdHU
  | .word, .unsigned => .irdWU
  | .wide, .unsigned => .irdDU

/-- The `IWR` command of a view (R100). -/
def Size.iwr : Size → Sign → RegIdx → Instr
  | .byte, .signed => .iwrB
  | .half, .signed => .iwrH
  | .word, .signed => .iwrW
  | .wide, .signed => .iwrD
  | .byte, .unsigned => .iwrBU
  | .half, .unsigned => .iwrHU
  | .word, .unsigned => .iwrWU
  | .wide, .unsigned => .iwrDU

theorem iviewBits_viewCode (size : Size) (sign : Sign) :
    iviewBits (size.viewCode sign) = size.bits := by
  cases size <;> cases sign <;> rfl

theorem spellIreg_viewCode_ird (size : Size) (sign : Sign) (i : RegIdx) :
    spellIreg false (size.viewCode sign).toNat i = some (size.ird sign i) := by
  cases size <;> cases sign <;> rfl

theorem spellIreg_viewCode_iwr (size : Size) (sign : Sign) (i : RegIdx) :
    spellIreg true (size.viewCode sign).toNat i = some (size.iwr sign i) := by
  cases size <;> cases sign <;> rfl

theorem exec_ird (size : Size) (sign : Sign) (i : RegIdx) (s : State) :
    exec (size.ird sign i) s = readIreg size sign i s := by
  cases size <;> cases sign <;> rfl

/-- R76: the signedness of the view has no effect on a write. -/
theorem exec_iwr (size : Size) (sign : Sign) (i : RegIdx) (s : State) :
    exec (size.iwr sign i) s = writeIreg size i s := by
  cases size <;> cases sign <;> rfl

theorem State.xlen_of_x32 {s : State} (h : s.cfg.xlen = .x32) : s.xlen = 32 := by
  rw [State.xlen, h, XLen.bits]

theorem State.xlen_of_x64 {s : State} (h : s.cfg.xlen = .x64) : s.xlen = 64 := by
  rw [State.xlen, h, XLen.bits]

/-- R97: the views of up to 32 bits exist in both variants. -/
theorem Size.bits_le_xlen {size : Size} (s : State) (h : size ≠ .wide) : size.bits ≤ s.xlen := by
  have h32 : size.bits ≤ 32 := by
    cases size with
    | byte | half | word => decide
    | wide => exact absurd rfl h
  have hx : 32 ≤ s.xlen := by
    rw [State.xlen]
    cases s.cfg.xlen <;> decide
  exact h32.trans hx

/-- R97: the 64-bit views exist in the wide variant. -/
theorem Size.wide_bits_le_xlen {s : State} (h : s.cfg.xlen = .x64) : Size.wide.bits ≤ s.xlen :=
  (State.xlen_of_x64 h).ge

/-- R97, R106: the 64-bit views do not exist in the narrow variant. -/
theorem Size.xlen_lt_wide_bits {s : State} (h : s.cfg.xlen = .x32) : s.xlen < Size.wide.bits := by
  rw [State.xlen_of_x32 h]
  decide

theorem iregDefect_of_xlen_lt {s : State} {w : Nat} (h : s.xlen < w) (i : RegIdx) :
    iregDefect s w i = some .errView := by
  rw [iregDefect, if_pos h]

/-- The word is that of index 0 in the row of R100 for the view. -/
abbrev Size.IregRow (size : Size) (wr : Bool) (sign : Sign) (word : Cmd) : Prop :=
  word = c16 1 wr (size.viewCode sign) 0

/-- R104: the word of a view that exists, with the index of a register that exists. -/
theorem decode_iregRow_of_exists {s : State} {size : Size} {wr : Bool} {sign : Sign} {word : Cmd}
    {i : RegIdx} {instr : Instr} (hword : size.IregRow wr sign word)
    (hspell : spellIreg wr (size.viewCode sign).toNat i = some instr)
    (hw : size.bits ≤ s.xlen) (hi : i.val < s.cfg.iregCount) :
    decode s.cfg (word ||| BitVec.ofNat 16 i.val) = .ok instr := by
  rw [hword, c16_zero_or_idx,
    decode_ireg_of_wf ((iviewBits_viewCode size sign).trans_le hw) hi hspell]

/-- R106: the word of a view wider than the register is refused. -/
theorem decode_iregRow_of_xlen_lt {s : State} {size : Size} {wr : Bool} {sign : Sign} {word : Cmd}
    (hword : size.IregRow wr sign word) (hw : s.xlen < size.bits) (i : RegIdx) :
    decode s.cfg (word ||| BitVec.ofNat 16 i.val) = .error .errView := by
  have hview : iviewBits (size.viewCode sign) > s.cfg.xlen.bits := by
    rwa [iviewBits_viewCode]
  rw [hword, c16_zero_or_idx, decode_c16_ireg, if_pos hview]

/-- R122 to R129 where the view exists. -/
theorem ird_of_exists {s : State} {i : RegIdx} {word : Cmd} (size : Size) (sign : Sign)
    (hword : size.IregRow false sign word) (hw : size.bits ≤ s.xlen) (hi : i.val < s.cfg.iregCount) :
    decode s.cfg (word ||| BitVec.ofNat 16 i.val) = .ok (size.ird sign i)
      ∧ exec (size.ird sign i) s = .next (s.answered
          (present sign (viewGet s.cfg.order s.xlen size.bits s.arch.ireg[i])) .ok 0) :=
  ⟨decode_iregRow_of_exists hword (spellIreg_viewCode_ird size sign i) hw hi,
    (exec_ird size sign i s).trans (readIreg_of_exists sign hw hi)⟩

/-- R125, R129 where the view is wider than the register. -/
theorem ird_of_xlen_lt {s : State} {word : Cmd} (size : Size) (sign : Sign)
    (hword : size.IregRow false sign word) (hw : s.xlen < size.bits) (i : RegIdx) :
    decode s.cfg (word ||| BitVec.ofNat 16 i.val) = .error .errView
      ∧ exec (size.ird sign i) s = .next (s.answered 0 .errView 0) :=
  ⟨decode_iregRow_of_xlen_lt hword hw i,
    (exec_ird size sign i s).trans (readIreg_of_defect sign (iregDefect_of_xlen_lt hw i))⟩

/-- R130 to R137 where the view exists. -/
theorem iwr_of_exists {s : State} {i : RegIdx} {word : Cmd} (size : Size) (sign : Sign)
    (hword : size.IregRow true sign word) (hw : size.bits ≤ s.xlen) (hi : i.val < s.cfg.iregCount) :
    decode s.cfg (word ||| BitVec.ofNat 16 i.val) = .ok (size.iwr sign i)
      ∧ exec (size.iwr sign i) s = .next
          ((s.setIreg i (viewPut s.cfg.order s.xlen size.bits s.arch.ireg[i]
            (s.port.wdata.setWidth size.bits))).answered 0 .ok 0) :=
  ⟨decode_iregRow_of_exists hword (spellIreg_viewCode_iwr size sign i) hw hi,
    (exec_iwr size sign i s).trans (writeIreg_of_exists hw hi)⟩

/-- R133, R137 where the view is wider than the register. -/
theorem iwr_of_xlen_lt {s : State} {word : Cmd} (size : Size) (sign : Sign)
    (hword : size.IregRow true sign word) (hw : s.xlen < size.bits) (i : RegIdx) :
    decode s.cfg (word ||| BitVec.ofNat 16 i.val) = .error .errView
      ∧ exec (size.iwr sign i) s = .next (s.answered 0 .errView 0) :=
  ⟨decode_iregRow_of_xlen_lt hword hw i,
    (exec_iwr size sign i s).trans (writeIreg_of_defect (iregDefect_of_xlen_lt hw i))⟩

end Sys2Proof.Machine
end

section
/-! PROOF of O1 to O4 (R122 to R137). Each clause is the rule of the class at one size and sign: the
narrow views exist in both variants, the 64-bit view by the width of the register. -/

namespace Sys2Proof.Machine

/-- Settles O1: the reads at the signed views. -/
theorem signedIregReads : Obligations.SignedIregReads := fun s i hi =>
  ⟨ird_of_exists .byte .signed rfl (Size.bits_le_xlen s nofun) hi,
    ird_of_exists .half .signed rfl (Size.bits_le_xlen s nofun) hi,
    ird_of_exists .word .signed rfl (Size.bits_le_xlen s nofun) hi,
    fun h64 => ird_of_exists .wide .signed rfl (Size.wide_bits_le_xlen h64) hi,
    fun h32 => ird_of_xlen_lt .wide .signed rfl (Size.xlen_lt_wide_bits h32) i⟩

/-- Settles O2: the reads at the unsigned views. -/
theorem unsignedIregReads : Obligations.UnsignedIregReads := fun s i hi =>
  ⟨ird_of_exists .byte .unsigned rfl (Size.bits_le_xlen s nofun) hi,
    ird_of_exists .half .unsigned rfl (Size.bits_le_xlen s nofun) hi,
    ird_of_exists .word .unsigned rfl (Size.bits_le_xlen s nofun) hi,
    fun h64 => ird_of_exists .wide .unsigned rfl (Size.wide_bits_le_xlen h64) hi,
    fun h32 => ird_of_xlen_lt .wide .unsigned rfl (Size.xlen_lt_wide_bits h32) i⟩

/-- Settles O3: the writes at the signed views. -/
theorem signedIregWrites : Obligations.SignedIregWrites := fun s i hi =>
  ⟨iwr_of_exists .byte .signed rfl (Size.bits_le_xlen s nofun) hi,
    iwr_of_exists .half .signed rfl (Size.bits_le_xlen s nofun) hi,
    iwr_of_exists .word .signed rfl (Size.bits_le_xlen s nofun) hi,
    fun h64 => iwr_of_exists .wide .signed rfl (Size.wide_bits_le_xlen h64) hi,
    fun h32 => iwr_of_xlen_lt .wide .signed rfl (Size.xlen_lt_wide_bits h32) i⟩

/-- Settles O4: the writes at the unsigned views. -/
theorem unsignedIregWrites : Obligations.UnsignedIregWrites := fun s i hi =>
  ⟨iwr_of_exists .byte .unsigned rfl (Size.bits_le_xlen s nofun) hi,
    iwr_of_exists .half .unsigned rfl (Size.bits_le_xlen s nofun) hi,
    iwr_of_exists .word .unsigned rfl (Size.bits_le_xlen s nofun) hi,
    fun h64 => iwr_of_exists .wide .unsigned rfl (Size.wide_bits_le_xlen h64) hi,
    fun h32 => iwr_of_xlen_lt .wide .unsigned rfl (Size.xlen_lt_wide_bits h32) i⟩

end Sys2Proof.Machine
end

section
/-! SUPPORT. The floating-point register commands by their view: the code of the view (R98), the
word of the command (R101), when the view exists, and the decoder's answer together with the effect,
where it does and where it does not. Only `double` can be missing. -/

namespace Sys2Proof.Machine

/-- The code of an FP view (R98). -/
def FView.code : FView → BitVec 3
  | .raw => 0
  | .rawUnsigned => 1
  | .single => 2
  | .double => 3

/-- The `FRD` command of a view (R101). -/
def FView.frd : FView → RegIdx → Instr
  | .raw => .frdX
  | .rawUnsigned => .frdXU
  | .single => .frdS
  | .double => .frdD

/-- The `FWR` command of a view (R101). -/
def FView.fwr : FView → RegIdx → Instr
  | .raw => .fwrX
  | .rawUnsigned => .fwrXU
  | .single => .fwrS
  | .double => .fwrD

theorem FView.code_toNat_lt (view : FView) : view.code.toNat < 4 := by
  cases view <;> decide

theorem FView.code_eq_three_iff {view : FView} : view.code = 3 ↔ view = .double := by
  cases view <;> decide

theorem spellFreg_code_frd (view : FView) (i : RegIdx) :
    spellFreg false view.code.toNat i = some (view.frd i) := by
  cases view <;> rfl

theorem spellFreg_code_fwr (view : FView) (i : RegIdx) :
    spellFreg true view.code.toNat i = some (view.fwr i) := by
  cases view <;> rfl

theorem exec_frd (view : FView) (i : RegIdx) (s : State) :
    exec (view.frd i) s = readFreg view i s := by
  cases view <;> rfl

theorem exec_fwr (view : FView) (i : RegIdx) (s : State) :
    exec (view.fwr i) s = writeFreg view i s := by
  cases view <;> rfl

theorem State.flen_of_f32 {s : State} (h : s.cfg.flen = .f32) : s.flen = 32 := by
  rw [State.flen, h, FLen.bits]

theorem State.flen_of_f64 {s : State} (h : s.cfg.flen = .f64) : s.flen = 64 := by
  rw [State.flen, h, FLen.bits]

/-- R98: the single view exists in both variants. -/
theorem FView.single_bits_le_flen (s : State) : FView.single.bits s.cfg.flen ≤ s.flen := by
  cases h : s.cfg.flen with
  | f32 => exact (State.flen_of_f32 h).ge
  | f64 =>
    rw [State.flen_of_f64 h]
    decide

/-- R98, R106: the double view exists in the wide variant only. -/
theorem FView.double_bits_le_flen_iff {s : State} :
    FView.double.bits s.cfg.flen ≤ s.flen ↔ s.cfg.flen = .f64 := by
  cases h : s.cfg.flen with
  | f32 => simp [FView.bits, State.flen_of_f32 h]
  | f64 => simp [FView.bits, State.flen_of_f64 h]

/-- R98: in the wide variant the double view is the whole register. -/
theorem FView.double_bits_eq_flen {s : State} (h : s.cfg.flen = .f64) :
    FView.double.bits s.cfg.flen = s.flen :=
  (State.flen_of_f64 h).symm

/-- R67: a view of the register's own width reads all of it. -/
theorem viewGet_of_whole {n w : Nat} (h : w = n) (order : ByteOrder) (r : Word) :
    viewGet order n w r = r.setWidth w :=
  if_pos h

/-- R68: a view of the register's own width replaces all of it. -/
theorem viewPut_of_whole {n w : Nat} (h : w = n) (order : ByteOrder) (r : Word) (v : BitVec w) :
    viewPut order n w r v = v.setWidth 64 :=
  if_pos h

/-- The word is that of index 0 in the row of R101 for the view. -/
abbrev FView.FregRow (view : FView) (wr : Bool) (word : Cmd) : Prop :=
  word = c16 2 wr view.code 0

/-- R104: the word of a view that exists, with the index of a register that exists. -/
theorem decode_fregRow_of_exists {s : State} {view : FView} {wr : Bool} {word : Cmd} {i : RegIdx}
    {instr : Instr} (hword : view.FregRow wr word)
    (hspell : spellFreg wr view.code.toNat i = some instr)
    (hw : view.bits s.cfg.flen ≤ s.flen) (hi : i.val < s.cfg.fregCount) :
    decode s.cfg (word ||| BitVec.ofNat 16 i.val) = .ok instr := by
  have hdouble : view.code = 3 → s.cfg.flen = .f64 := fun h3 => by
    obtain rfl := FView.code_eq_three_iff.mp h3
    exact FView.double_bits_le_flen_iff.mp hw
  rw [hword, c16_zero_or_idx, decode_freg_of_wf view.code_toNat_lt hdouble hi hspell]

/-- R106: the word of the double view is refused in the narrow variant. -/
theorem decode_fregRow_double_of_f32 {s : State} {wr : Bool} {word : Cmd}
    (hword : FView.double.FregRow wr word) (h32 : s.cfg.flen = .f32) (i : RegIdx) :
    decode s.cfg (word ||| BitVec.ofNat 16 i.val) = .error .errView := by
  rw [hword, c16_zero_or_idx, decode_c16_freg, if_pos (Or.inr ⟨rfl, h32⟩)]

theorem fregDefect_double_of_f32 {s : State} (h32 : s.cfg.flen = .f32) (i : RegIdx) :
    fregDefect s (FView.double.bits s.cfg.flen) i = some .errView := by
  have hlt : s.flen < FView.double.bits s.cfg.flen :=
    not_le.mp (FView.double_bits_le_flen_iff.not.mpr (by simp [h32]))
  rw [fregDefect, if_pos hlt]

/-- R142 to R145 where the view exists, for the value `d` that it presents. -/
theorem frd_of_exists {s : State} {i : RegIdx} {word : Cmd} {d : Word} (view : FView)
    (hword : view.FregRow false word) (hw : view.bits s.cfg.flen ≤ s.flen)
    (hi : i.val < s.cfg.fregCount)
    (hd : present view.sign
      (viewGet s.cfg.order s.flen (view.bits s.cfg.flen) s.arch.freg[i]) = d) :
    decode s.cfg (word ||| BitVec.ofNat 16 i.val) = .ok (view.frd i)
      ∧ exec (view.frd i) s = .next (s.answered d .ok 0) := by
  refine ⟨decode_fregRow_of_exists hword (spellFreg_code_frd view i) hw hi, ?_⟩
  rw [exec_frd, readFreg_of_exists hw hi, hd, State.respond]

/-- R145 in the narrow variant. -/
theorem frd_double_of_f32 {s : State} {word : Cmd} (hword : FView.double.FregRow false word)
    (h32 : s.cfg.flen = .f32) (i : RegIdx) :
    decode s.cfg (word ||| BitVec.ofNat 16 i.val) = .error .errView
      ∧ exec (.frdD i) s = .next (s.answered 0 .errView 0) :=
  ⟨decode_fregRow_double_of_f32 hword h32 i,
    (exec_frd .double i s).trans (readFreg_of_defect (fregDefect_double_of_f32 h32 i))⟩

/-- R146 to R149 where the view exists, for the register contents `v` that it leaves. -/
theorem fwr_of_exists {s : State} {i : RegIdx} {word : Cmd} {v : Word} (view : FView)
    (hword : view.FregRow true word) (hw : view.bits s.cfg.flen ≤ s.flen)
    (hi : i.val < s.cfg.fregCount)
    (hv : viewPut s.cfg.order s.flen (view.bits s.cfg.flen) s.arch.freg[i]
      (s.port.wdata.setWidth (view.bits s.cfg.flen)) = v) :
    decode s.cfg (word ||| BitVec.ofNat 16 i.val) = .ok (view.fwr i)
      ∧ exec (view.fwr i) s = .next ((s.setFreg i v).answered 0 .ok 0) := by
  refine ⟨decode_fregRow_of_exists hword (spellFreg_code_fwr view i) hw hi, ?_⟩
  rw [exec_fwr, writeFreg_of_exists hw hi, hv, State.respond]

/-- R149 in the narrow variant. -/
theorem fwr_double_of_f32 {s : State} {word : Cmd} (hword : FView.double.FregRow true word)
    (h32 : s.cfg.flen = .f32) (i : RegIdx) :
    decode s.cfg (word ||| BitVec.ofNat 16 i.val) = .error .errView
      ∧ exec (.fwrD i) s = .next (s.answered 0 .errView 0) :=
  ⟨decode_fregRow_double_of_f32 hword h32 i,
    (exec_fwr .double i s).trans (writeFreg_of_defect (fregDefect_double_of_f32 h32 i))⟩

end Sys2Proof.Machine
end

section
/-! PROOF of O5 and O6 (R142 to R149). Each clause is the rule of the class at one view: the raw
views and, in the wide variant, the double view are the whole register; the single view is `viewGet`
and `viewPut` at 32 bits as the statement writes them. -/

namespace Sys2Proof.Machine

/-- Settles O5: the reads. -/
theorem fregReads : Obligations.FregReads := fun s i hi =>
  ⟨frd_of_exists .raw rfl le_rfl hi (congrArg sext64 (viewGet_of_whole rfl _ _)),
    frd_of_exists .rawUnsigned rfl le_rfl hi (congrArg zext64 (viewGet_of_whole rfl _ _)),
    frd_of_exists .single rfl (FView.single_bits_le_flen s) hi rfl,
    fun h64 => frd_of_exists .double rfl (FView.double_bits_le_flen_iff.mpr h64) hi <| by
      rw [viewGet_of_whole (FView.double_bits_eq_flen h64)]
      simp [present, FView.sign, FView.bits, zext64],
    fun h32 => frd_double_of_f32 rfl h32 i⟩

/-- Settles O6: the writes. -/
theorem fregWrites : Obligations.FregWrites := fun s i hi =>
  ⟨fwr_of_exists .raw rfl le_rfl hi (viewPut_of_whole rfl _ _ _),
    fwr_of_exists .rawUnsigned rfl le_rfl hi (viewPut_of_whole rfl _ _ _),
    fwr_of_exists .single rfl (FView.single_bits_le_flen s) hi rfl,
    fun h64 => fwr_of_exists .double rfl (FView.double_bits_le_flen_iff.mpr h64) hi <| by
      rw [viewPut_of_whole (FView.double_bits_eq_flen h64)]
      simp [FView.bits],
    fun h32 => fwr_double_of_f32 rfl h32 i⟩

end Sys2Proof.Machine
end

section
/-! SUPPORT. The scalar commands by their field: the word of the command (R102), and the decoder's
answer together with the effect. No hypothesis: every build has all ten fields. -/

namespace Sys2Proof.Machine

/-- The `SRD` command of a scalar field (R102). -/
def Scalar.srd : Scalar → Instr
  | .pc => .srdPc
  | .nodeId => .srdNode
  | .hartId => .srdHart
  | .log => .srdLog
  | .lr => .srdLr
  | .faultAddr => .srdFault
  | .time => .srdTime
  | .cycle => .srdCycle
  | .instret => .srdInstret
  | .fcsr => .srdFcsr

/-- The `SWR` command of a scalar field (R102). -/
def Scalar.swr : Scalar → Instr
  | .pc => .swrPc
  | .nodeId => .swrNode
  | .hartId => .swrHart
  | .log => .swrLog
  | .lr => .swrLr
  | .faultAddr => .swrFault
  | .time => .swrTime
  | .cycle => .swrCycle
  | .instret => .swrInstret
  | .fcsr => .swrFcsr

theorem Scalar.index_lt (f : Scalar) : f.index < 10 := by
  cases f <;> decide

/-- The scalar index as it stands in a word (R93). -/
def Scalar.idx (f : Scalar) : RegIdx := ⟨f.index, f.index_lt.trans (by decide)⟩

@[simp] theorem Scalar.idx_val (f : Scalar) : f.idx.val = f.index := rfl

theorem spellSreg_index_srd (f : Scalar) : spellSreg false f.index = some f.srd := by
  cases f <;> rfl

theorem spellSreg_index_swr (f : Scalar) : spellSreg true f.index = some f.swr := by
  cases f <;> rfl

theorem exec_srd (f : Scalar) (s : State) : exec f.srd s = readScalar f s := by
  cases f <;> rfl

theorem exec_swr (f : Scalar) (s : State) : exec f.swr s = writeScalar f s := by
  cases f <;> rfl

/-- The word is that of the row of R102 for the field. -/
abbrev Scalar.SregRow (f : Scalar) (wr : Bool) (word : Cmd) : Prop := word = c16 3 wr 0 f.idx

/-- R104: the word of a scalar field is accepted in every build. -/
theorem decode_sregRow {f : Scalar} {wr : Bool} {word : Cmd} {instr : Instr} (cfg : Config)
    (hword : f.SregRow wr word) (hspell : spellSreg wr f.index = some instr) :
    decode cfg word = .ok instr := by
  rw [hword, decode_c16_sreg, Scalar.idx_val, if_neg f.index_lt.not_ge, hspell, spelled]

/-- R150, for the value `d` that the field presents. -/
theorem srd_of_presented {s : State} {word : Cmd} {d : Word} (f : Scalar)
    (hword : f.SregRow false word)
    (hd : present f.sign ((s.arch.scalar f).setWidth (f.bits s.cfg.xlen)) = d) :
    decode s.cfg word = .ok f.srd ∧ exec f.srd s = .next (s.answered d .ok 0) := by
  refine ⟨decode_sregRow s.cfg hword (spellSreg_index_srd f), ?_⟩
  rw [exec_srd, readScalar_eq, hd, State.respond]

/-- R151. -/
theorem swr_of_row {word : Cmd} (s : State) (f : Scalar) (hword : f.SregRow true word) :
    decode s.cfg word = .ok f.swr
      ∧ exec f.swr s = .next ((s.setScalar f s.port.wdata).answered 0 .ok 0) :=
  ⟨decode_sregRow s.cfg hword (spellSreg_index_swr f), (exec_swr f s).trans (writeScalar_eq f s)⟩

/-- A field narrower than a word, stored in one and cut to its width, is presented with zeros above
it. -/
theorem present_unsigned_setWidth {w : Nat} (hw : w ≤ 64) (v : BitVec w) :
    present .unsigned ((v.setWidth 64).setWidth w) = v.setWidth 64 := by
  rw [BitVec.setWidth_setWidth_of_le v hw, BitVec.setWidth_eq, present, zext64]

/-- A field as wide as a word is presented as it is. -/
theorem present_unsigned_word (v : Word) : present .unsigned (v.setWidth 64) = v := by
  rw [BitVec.setWidth_eq, present, zext64, BitVec.setWidth_eq]

end Sys2Proof.Machine
end

section
/-! PROOF of O7 and O8 (R152 to R171). Each clause is the rule of the class at one field: a read
presents the fields of XLEN bits as the rule writes them, the others at their stored width; a write
is `putScalar` at the field. -/

namespace Sys2Proof.Machine

/-- Settles O7: the reads. -/
theorem scalarReads : Obligations.ScalarReads := fun _ =>
  ⟨srd_of_presented .pc rfl rfl,
    srd_of_presented .nodeId rfl (present_unsigned_setWidth (w := 16) (by decide) _),
    srd_of_presented .hartId rfl (present_unsigned_setWidth (w := 16) (by decide) _),
    srd_of_presented .log rfl (present_unsigned_setWidth (w := 32) (by decide) _),
    srd_of_presented .lr rfl rfl,
    srd_of_presented .faultAddr rfl rfl,
    srd_of_presented .time rfl (present_unsigned_word _),
    srd_of_presented .cycle rfl (present_unsigned_word _),
    srd_of_presented .instret rfl (present_unsigned_word _),
    srd_of_presented .fcsr rfl rfl⟩

/-- Settles O8: the writes. -/
theorem scalarWrites : Obligations.ScalarWrites := fun s =>
  ⟨swr_of_row s .pc rfl, swr_of_row s .nodeId rfl, swr_of_row s .hartId rfl,
    swr_of_row s .log rfl, swr_of_row s .lr rfl, swr_of_row s .faultAddr rfl,
    swr_of_row s .time rfl, swr_of_row s .cycle rfl, swr_of_row s .instret rfl,
    swr_of_row s .fcsr rfl⟩

end Sys2Proof.Machine
end

section
/-! SUPPORT. The commands of 43_frc_nop.md: the words of R103, and the shared operation that each
command is. -/

namespace Sys2Proof.Machine

/-- R103: the word `0x4800`. -/
theorem decode_frcSet_word (cfg : Config) : decode cfg 0x4800#16 = .ok .frcSet :=
  decode_c16_frc cfg true

/-- R103: the word `0x4000`. -/
theorem decode_frcTake_word (cfg : Config) : decode cfg 0x4000#16 = .ok .frcTake :=
  decode_c16_frc cfg false

/-- R103: the word `0x0000`. -/
theorem decode_nop_word (cfg : Config) : decode cfg 0x0000#16 = .ok .nop :=
  decode_c16_nop cfg

theorem exec_frcSet (s : State) : exec .frcSet s = establishRecovery s := rfl

theorem exec_frcTake (s : State) : exec .frcTake s = takeRecovery s := rfl

theorem exec_nop (s : State) : exec .nop s = respondOk 0 s := rfl

end Sys2Proof.Machine
end

section
/-! PROOF of O9 (R181, R182, R183). Each word spells its command, and each command is one shared
operation; the take answers by whether a recovery point is held. -/

namespace Sys2Proof.Machine

/-- Settles O9: a clause for each command, two for the take. -/
theorem frcAndNop : Obligations.FrcAndNop := by
  intro s
  refine ⟨⟨decode_frcSet_word s.cfg, ?set⟩, decode_frcTake_word s.cfg, ?takeSome, ?takeNone,
    decode_nop_word s.cfg, ?nop⟩
  case set => exact (exec_frcSet s).trans (establishRecovery_eq s)
  case takeSome => exact fun p hp => (exec_frcTake s).trans (takeRecovery_some hp)
  case takeNone => exact fun hnone => (exec_frcTake s).trans (takeRecovery_none hnone)
  case nop => exact (exec_nop s).trans (respondOk_eq 0 s)

end Sys2Proof.Machine
end

section
/-! PROOF of O28 (R192). The response with an error is the one way of `Answers` that only responds;
and no part of a cycle reads the last response (R51). -/

namespace Sys2Proof.Machine

theorem err_of_respond_ok {s : State} {d : Word} {p : Snapshot} {r : Response}
    (h : (s.respond d .ok p).resp = some r) : r.err = .ok := by
  obtain rfl := Option.some.inj h
  rfl

/-- R192: a command that answers an error only responds, with no data. -/
theorem Answers.changes_nothing_of_error {s t : State} {r : Response} (h : Answers s (.next t))
    (hr : t.resp = some r) (herr : r.err ≠ .ok) :
    t.arch = s.arch ∧ r.rdata = 0 ∧ r.frcOut = 0 := by
  cases h with
  | responds d e hdata =>
    obtain rfl := Option.some.inj hr
    exact ⟨respond_arch s d e 0, hdata herr, rfl⟩
  | writesIreg => exact absurd (err_of_respond_ok hr) herr
  | writesFreg => exact absurd (err_of_respond_ok hr) herr
  | writesScalar => exact absurd (err_of_respond_ok hr) herr
  | establishes => exact absurd (err_of_respond_ok hr) herr
  | consumes => exact absurd (err_of_respond_ok hr) herr

/-- A cycle with a response has performed a command or answered a decoding error. -/
theorem answers_of_step {s t : State} {r : Response} (h : step s = .next t)
    (hr : t.resp = some r) : Answers s.takeCycle (.next t) := by
  rw [← h]
  obtain ⟨-, hstep⟩ | ⟨i, -, -, -, hstep⟩ | ⟨e, -, -, -, hstep⟩ | ⟨-, -, hstep⟩ := step_cases s
  case inl =>
    obtain rfl := Host.Outcome.next.inj (hstep.symm.trans h)
    simp at hr
  case inr.inl => exact hstep ▸ exec_answers i s.takeCycle
  case inr.inr.inl => exact hstep ▸ Answers.err s.takeCycle e
  case inr.inr.inr =>
    obtain rfl := Host.Outcome.next.inj (hstep.symm.trans h)
    simp at hr

theorem takeCycle_of_resp (s : State) (last : Option Response) :
    { s with resp := last }.takeCycle = { s.takeCycle with resp := last } := by
  obtain ⟨cfg, arch, port, client, resp⟩ := s
  cases client with
  | nil => rfl
  | cons c rest => rfl

/-- A response given in either state leaves the same state, and no operation reads it. -/
theorem exec_of_resp (i : Instr) (s : State) (last : Option Response) :
    exec i { s with resp := last } = exec i s := by
  by_cases htake : i = .frcTake
  · subst htake
    rfl
  · have hp := exec_performs i htake
    calc exec i { s with resp := last }
        = exec i ({ s with resp := last }.respond 0 .ok 0) := (hp.respond_absorbed _ 0 .ok 0).symm
      _ = exec i (s.respond 0 .ok 0) := rfl
      _ = exec i s := hp.respond_absorbed s 0 .ok 0

/-- R192: an error is not sticky, and the next command is decoded afresh. -/
theorem step_of_resp (s : State) (last : Option Response) :
    step { s with resp := last } = step s := by
  rw [step, step, takeCycle_of_resp]
  dsimp only
  split_ifs
  case pos => rfl
  case pos =>
    split
    · exact exec_of_resp _ _ last
    · rfl
  case neg => rfl

/-- Settles O28: a response with an error comes from a command that only responds; the step does not
read the last response. -/
theorem errorsChangeNothingAndLeaveNoRecord :
    Obligations.ErrorsChangeNothingAndLeaveNoRecord := by
  refine ⟨fun s t r h hr herr => ?_, step_of_resp⟩
  rw [← takeCycle_arch s]
  exact (answers_of_step h hr).changes_nothing_of_error hr herr

end Sys2Proof.Machine
end

section
/-! PROOF of O24 (R221, R222, R223). Every view of a register that holds 0 reads 0, and 0 is
presented as 0 whatever the signedness; so after reset the rules of the reads answer 0, but for
`lr`, which holds ones(XLEN) and is sign-extended. -/

namespace Sys2Proof.Machine

@[simp] theorem present_zero {w : Nat} (sign : Sign) : present sign (0#w) = 0 := by
  cases sign with
  | signed => simp [present, sext64, BitVec.signExtend_eq_setWidth_of_msb_false]
  | unsigned => simp [present, zext64]

/-- R67: every view of a register that holds 0 is 0. -/
@[simp] theorem viewGet_zero (order : ByteOrder) (n w : Nat) : viewGet order n w 0 = 0#w := by
  apply BitVec.eq_of_getLsbD_eq
  intro k hk
  rw [viewGet_getLsbD order 0 hk]
  simp

@[simp] theorem resetOf_arch (cfg : Config) : (State.resetOf cfg).arch = Arch.reset cfg := rfl

/-- R222: `lr` is ones(XLEN). -/
theorem reset_lr_toNat (cfg : Config) : (Arch.reset cfg).lr.toNat = 2 ^ cfg.xlen.bits - 1 := by
  rw [Arch.reset]
  cases cfg.xlen <;> rfl

@[simp] theorem reset_ireg (cfg : Config) (i : RegIdx) : (Arch.reset cfg).ireg[i] = 0 := by
  simp [Arch.reset]

@[simp] theorem reset_freg (cfg : Config) (i : RegIdx) : (Arch.reset cfg).freg[i] = 0 := by
  simp [Arch.reset]

/-- R221: of the scalar fields, only `lr` is not 0. -/
theorem reset_scalar {f : Scalar} (cfg : Config) (hf : f ≠ .lr) :
    (Arch.reset cfg).scalar f = 0 := by
  cases f with
  | lr => exact absurd rfl hf
  | _ => rfl

/-- R222, R223: sign-extended, ones(XLEN) are 64 ones in either variant. -/
theorem present_reset_lr (cfg : Config) :
    present Scalar.lr.sign (((Arch.reset cfg).scalar .lr).setWidth (Scalar.lr.bits cfg.xlen))
      = 0xFFFFFFFFFFFFFFFF#64 := by
  rw [Arch.scalar, Arch.reset, Scalar.bits]
  cases cfg.xlen <;> decide

theorem srdLr_resetOf (cfg : Config) : exec .srdLr (State.resetOf cfg)
    = .next ((State.resetOf cfg).answered 0xFFFFFFFFFFFFFFFF#64 .ok 0) :=
  (srd_of_presented (s := State.resetOf cfg) .lr rfl (present_reset_lr cfg)).2

theorem srd_resetOf {f : Scalar} (cfg : Config) (hf : f ≠ .lr) :
    exec f.srd (State.resetOf cfg) = .next ((State.resetOf cfg).answered 0 .ok 0) := by
  have hd : present f.sign (((Arch.reset cfg).scalar f).setWidth (f.bits cfg.xlen)) = 0 := by
    simp [reset_scalar cfg hf]
  exact (srd_of_presented (s := State.resetOf cfg) f rfl hd).2

theorem ird_resetOf {cfg : Config} {size : Size} {i : RegIdx} (sign : Sign)
    (hw : size.bits ≤ (State.resetOf cfg).xlen) (hi : i.val < cfg.iregCount) :
    exec (size.ird sign i) (State.resetOf cfg)
      = .next ((State.resetOf cfg).answered 0 .ok 0) := by
  rw [exec_ird, readIreg_of_exists sign hw hi, resetOf_arch, reset_ireg, viewGet_zero,
    present_zero, State.respond]

theorem frd_resetOf {cfg : Config} {view : FView} {i : RegIdx}
    (hw : view.bits cfg.flen ≤ (State.resetOf cfg).flen) (hi : i.val < cfg.fregCount) :
    exec (view.frd i) (State.resetOf cfg) = .next ((State.resetOf cfg).answered 0 .ok 0) := by
  rw [exec_frd, readFreg_of_exists hw hi, resetOf_arch, reset_freg, viewGet_zero,
    present_zero, State.respond]

/-- R98: every view but the double view exists in both variants. -/
theorem FView.bits_le_flen {view : FView} (s : State) (h : view ≠ .double) :
    view.bits s.cfg.flen ≤ s.flen := by
  cases view with
  | raw | rawUnsigned => exact le_rfl
  | single => exact FView.single_bits_le_flen s
  | double => exact absurd rfl h

/-- Settles O24: the elements by their reset values; the commands a clause lists are those of the
fields or views named here, each read by the rule of its class. -/
theorem resetValues : Obligations.ResetValues := by
  intro cfg s
  refine ⟨rfl, reset_ireg cfg, reset_freg cfg, rfl, rfl, rfl, reset_lr_toNat cfg, rfl, rfl, rfl,
    rfl, rfl, rfl, srdLr_resetOf cfg, ?scalars, fun i hi => ?narrow, fun i hi h64 => ?wide,
    fun i hi => ?fp, fun i hi h64 => ?double⟩
  case scalars =>
    have hne : ∀ f ∈ [Scalar.pc, .nodeId, .hartId, .log, .faultAddr, .time, .cycle, .instret,
        .fcsr], f ≠ .lr := by decide
    exact List.forall_mem_map (f := Scalar.srd).mpr fun f hf => srd_resetOf cfg (hne f hf)
  case narrow =>
    have hne : ∀ v ∈ [(Size.byte, Sign.signed), (.half, .signed), (.word, .signed),
        (.byte, .unsigned), (.half, .unsigned), (.word, .unsigned)], v.1 ≠ .wide := by decide
    exact List.forall_mem_map (f := fun v : Size × Sign => v.1.ird v.2 i).mpr fun v hv =>
      ird_resetOf v.2 (Size.bits_le_xlen s (hne v hv)) hi
  case wide =>
    exact List.forall_mem_map (f := (Size.wide.ird · i)) (l := [.signed, .unsigned]).mpr
      fun sign _ => ird_resetOf sign (Size.wide_bits_le_xlen (s := s) h64) hi
  case fp =>
    have hne : ∀ view ∈ [FView.raw, .rawUnsigned, .single], view ≠ .double := by decide
    exact List.forall_mem_map (f := (FView.frd · i)).mpr fun view hview =>
      frd_resetOf (FView.bits_le_flen s (hne view hview)) hi
  case double =>
    exact frd_resetOf (view := .double) ((FView.double_bits_le_flen_iff (s := s)).mpr h64) hi

end Sys2Proof.Machine
end

section
/-! SUPPORT. Every command by its class: the command of a view, of a scalar field, or one of the
three without an operand in the word. A proof about all 47 commands is a proof about these nine forms. -/

namespace Sys2Proof.Machine

/-- The forms of the rows of R100 to R103. -/
inductive InstrForm : Instr → Prop where
  | ird (size : Size) (sign : Sign) (j : RegIdx) : InstrForm (size.ird sign j)
  | iwr (size : Size) (sign : Sign) (j : RegIdx) : InstrForm (size.iwr sign j)
  | frd (view : FView) (j : RegIdx) : InstrForm (view.frd j)
  | fwr (view : FView) (j : RegIdx) : InstrForm (view.fwr j)
  | srd (f : Scalar) : InstrForm f.srd
  | swr (f : Scalar) : InstrForm f.swr
  | frcTake : InstrForm .frcTake
  | frcSet : InstrForm .frcSet
  | nop : InstrForm .nop

theorem instr_form (i : Instr) : InstrForm i := by
  cases i with
  | irdB j => exact .ird .byte .signed j
  | irdH j => exact .ird .half .signed j
  | irdW j => exact .ird .word .signed j
  | irdD j => exact .ird .wide .signed j
  | irdBU j => exact .ird .byte .unsigned j
  | irdHU j => exact .ird .half .unsigned j
  | irdWU j => exact .ird .word .unsigned j
  | irdDU j => exact .ird .wide .unsigned j
  | iwrB j => exact .iwr .byte .signed j
  | iwrH j => exact .iwr .half .signed j
  | iwrW j => exact .iwr .word .signed j
  | iwrD j => exact .iwr .wide .signed j
  | iwrBU j => exact .iwr .byte .unsigned j
  | iwrHU j => exact .iwr .half .unsigned j
  | iwrWU j => exact .iwr .word .unsigned j
  | iwrDU j => exact .iwr .wide .unsigned j
  | frdX j => exact .frd .raw j
  | frdXU j => exact .frd .rawUnsigned j
  | frdS j => exact .frd .single j
  | frdD j => exact .frd .double j
  | fwrX j => exact .fwr .raw j
  | fwrXU j => exact .fwr .rawUnsigned j
  | fwrS j => exact .fwr .single j
  | fwrD j => exact .fwr .double j
  | srdPc => exact .srd .pc
  | swrPc => exact .swr .pc
  | srdNode => exact .srd .nodeId
  | swrNode => exact .swr .nodeId
  | srdHart => exact .srd .hartId
  | swrHart => exact .swr .hartId
  | srdLog => exact .srd .log
  | swrLog => exact .swr .log
  | srdLr => exact .srd .lr
  | swrLr => exact .swr .lr
  | srdFault => exact .srd .faultAddr
  | swrFault => exact .swr .faultAddr
  | srdTime => exact .srd .time
  | swrTime => exact .swr .time
  | srdCycle => exact .srd .cycle
  | swrCycle => exact .swr .cycle
  | srdInstret => exact .srd .instret
  | swrInstret => exact .swr .instret
  | srdFcsr => exact .srd .fcsr
  | swrFcsr => exact .swr .fcsr
  | frcTake => exact .frcTake
  | frcSet => exact .frcSet
  | nop => exact .nop

/-! The word of each form (R100 to R102). -/

theorem encode_ird (size : Size) (sign : Sign) (j : RegIdx) :
    encode (size.ird sign j) = c16 1 false (size.viewCode sign) j := by
  cases size <;> cases sign <;> rfl

theorem encode_iwr (size : Size) (sign : Sign) (j : RegIdx) :
    encode (size.iwr sign j) = c16 1 true (size.viewCode sign) j := by
  cases size <;> cases sign <;> rfl

theorem encode_frd (view : FView) (j : RegIdx) :
    encode (view.frd j) = c16 2 false view.code j := by
  cases view <;> rfl

theorem encode_fwr (view : FView) (j : RegIdx) :
    encode (view.fwr j) = c16 2 true view.code j := by
  cases view <;> rfl

theorem encode_srd (f : Scalar) : encode f.srd = c16 3 false 0 f.idx := by
  cases f <;> rfl

theorem encode_swr (f : Scalar) : encode f.swr = c16 3 true 0 f.idx := by
  cases f <;> rfl

/-! When each form exists (R62, R96, R106). -/

theorem Size.bits_le_iff (size : Size) (x : XLen) :
    size.bits ≤ x.bits ↔ (size = .wide → x = .x64) := by
  cases size <;> cases x <;> decide

theorem FView.bits_le_iff (view : FView) (x : FLen) :
    view.bits x ≤ x.bits ↔ (view = .double → x = .f64) := by
  cases view <;> cases x <;> decide

theorem wf_ird {cfg : Config} {size : Size} {sign : Sign} {j : RegIdx} :
    (size.ird sign j).wf cfg = true ↔ size.bits ≤ cfg.xlen.bits ∧ j.val < cfg.iregCount := by
  rw [Size.bits_le_iff]
  cases size <;> cases sign <;>
    simp [Size.ird, Instr.wf, Config.hasIreg, Config.hasWideIreg]

theorem wf_iwr {cfg : Config} {size : Size} {sign : Sign} {j : RegIdx} :
    (size.iwr sign j).wf cfg = true ↔ size.bits ≤ cfg.xlen.bits ∧ j.val < cfg.iregCount := by
  rw [Size.bits_le_iff]
  cases size <;> cases sign <;>
    simp [Size.iwr, Instr.wf, Config.hasIreg, Config.hasWideIreg]

theorem wf_frd {cfg : Config} {view : FView} {j : RegIdx} :
    (view.frd j).wf cfg = true ↔ view.bits cfg.flen ≤ cfg.flen.bits ∧ j.val < cfg.fregCount := by
  rw [FView.bits_le_iff]
  cases view <;> simp [FView.frd, Instr.wf, Config.hasFreg, Config.hasDouble]

theorem wf_fwr {cfg : Config} {view : FView} {j : RegIdx} :
    (view.fwr j).wf cfg = true ↔ view.bits cfg.flen ≤ cfg.flen.bits ∧ j.val < cfg.fregCount := by
  rw [FView.bits_le_iff]
  cases view <;> simp [FView.fwr, Instr.wf, Config.hasFreg, Config.hasDouble]

theorem wf_srd (cfg : Config) (f : Scalar) : f.srd.wf cfg = true := by
  cases f <;> rfl

theorem wf_swr (cfg : Config) (f : Scalar) : f.swr.wf cfg = true := by
  cases f <;> rfl

end Sys2Proof.Machine
end

section
/-! PROOF of O17 (R100 to R107). A word that passes the tests of R104 is the word of a command that
exists, because every view code and every scalar index in range is that of a view or a field; and
the word of a command that exists decodes to it. -/

namespace Sys2Proof.Machine

/-- R97: all eight codes are views. -/
theorem Size.exists_viewCode (view : BitVec 3) :
    ∃ (size : Size) (sign : Sign), size.viewCode sign = view := by
  obtain ⟨v, hv, rfl⟩ := exists_ofNat_of_toNat_lt view.isLt
  interval_cases v
  · exact ⟨.byte, .signed, rfl⟩
  · exact ⟨.half, .signed, rfl⟩
  · exact ⟨.word, .signed, rfl⟩
  · exact ⟨.wide, .signed, rfl⟩
  · exact ⟨.byte, .unsigned, rfl⟩
  · exact ⟨.half, .unsigned, rfl⟩
  · exact ⟨.word, .unsigned, rfl⟩
  · exact ⟨.wide, .unsigned, rfl⟩

/-- R98: the codes below 4 are views. -/
theorem FView.exists_code {view : BitVec 3} (h : view.toNat < 4) : ∃ v : FView, v.code = view := by
  obtain ⟨v, hv, rfl⟩ := exists_ofNat_of_toNat_lt h
  interval_cases v
  · exact ⟨.raw, rfl⟩
  · exact ⟨.rawUnsigned, rfl⟩
  · exact ⟨.single, rfl⟩
  · exact ⟨.double, rfl⟩

/-- R102: the indices below 10 are scalar fields. -/
theorem Scalar.exists_idx {idx : RegIdx} (h : idx.val < 10) : ∃ f : Scalar, f.idx = idx := by
  obtain ⟨n, hn⟩ := idx
  change n < 10 at h
  interval_cases n
  · exact ⟨.pc, rfl⟩
  · exact ⟨.nodeId, rfl⟩
  · exact ⟨.hartId, rfl⟩
  · exact ⟨.log, rfl⟩
  · exact ⟨.lr, rfl⟩
  · exact ⟨.faultAddr, rfl⟩
  · exact ⟨.time, rfl⟩
  · exact ⟨.cycle, rfl⟩
  · exact ⟨.instret, rfl⟩
  · exact ⟨.fcsr, rfl⟩

/-- The word of a command that exists decodes to the command. -/
theorem decode_encode_of_wf {cfg : Config} {i : Instr} (h : i.wf cfg = true) :
    decode cfg (encode i) = .ok i := by
  cases instr_form i with
  | ird size sign j =>
    obtain ⟨hw, hj⟩ := wf_ird.mp h
    rw [encode_ird, decode_ireg_of_wf ((iviewBits_viewCode size sign).trans_le hw) hj
      (spellIreg_viewCode_ird size sign j)]
  | iwr size sign j =>
    obtain ⟨hw, hj⟩ := wf_iwr.mp h
    rw [encode_iwr, decode_ireg_of_wf ((iviewBits_viewCode size sign).trans_le hw) hj
      (spellIreg_viewCode_iwr size sign j)]
  | frd view j =>
    obtain ⟨hw, hj⟩ := wf_frd.mp h
    rw [encode_frd, decode_freg_of_wf view.code_toNat_lt
      (fun h3 => (view.bits_le_iff _).mp hw (FView.code_eq_three_iff.mp h3)) hj
      (spellFreg_code_frd view j)]
  | fwr view j =>
    obtain ⟨hw, hj⟩ := wf_fwr.mp h
    rw [encode_fwr, decode_freg_of_wf view.code_toNat_lt
      (fun h3 => (view.bits_le_iff _).mp hw (FView.code_eq_three_iff.mp h3)) hj
      (spellFreg_code_fwr view j)]
  | srd f => exact decode_sregRow cfg (encode_srd f) (spellSreg_index_srd f)
  | swr f => exact decode_sregRow cfg (encode_swr f) (spellSreg_index_swr f)
  | frcTake => exact decode_c16_frc cfg false
  | frcSet => exact decode_c16_frc cfg true
  | nop => exact decode_c16_nop cfg

/-- A word that passes the tests of R104 is the word of a command that exists. -/
theorem exists_encode_of_no_defect {cfg : Config} {c : Cmd} (hcls : (fieldClass c).toNat < 5)
    (hfield : ¬ fieldDefect c = true) (hview : ¬ viewDefect cfg c = true)
    (hindex : ¬ indexDefect cfg c = true) : ∃ i : Instr, i.wf cfg = true ∧ encode i = c := by
  cases fieldForm_of_no_fieldDefect hcls hfield with
  | nop => exact ⟨.nop, rfl, rfl⟩
  | ireg wr view idx =>
    obtain ⟨size, sign, rfl⟩ := Size.exists_viewCode view
    have hw : size.bits ≤ cfg.xlen.bits := by
      simpa [viewDefect, iviewBits_viewCode] using hview
    have hidx : idx.val < cfg.iregCount := by simpa [indexDefect] using hindex
    cases wr with
    | false => exact ⟨size.ird sign idx, wf_ird.mpr ⟨hw, hidx⟩, encode_ird size sign idx⟩
    | true => exact ⟨size.iwr sign idx, wf_iwr.mpr ⟨hw, hidx⟩, encode_iwr size sign idx⟩
  | freg wr view idx =>
    obtain ⟨hlt, hdouble⟩ : view.toNat < 4 ∧ (view = 3#3 → ¬ cfg.flen = .f32) := by
      simpa [viewDefect] using hview
    obtain ⟨view, rfl⟩ := FView.exists_code hlt
    have hw : view.bits cfg.flen ≤ cfg.flen.bits := (view.bits_le_iff _).mpr fun hd => by
      have h32 := hdouble (FView.code_eq_three_iff.mpr hd)
      cases hx : cfg.flen with
      | f32 => exact absurd hx h32
      | f64 => rfl
    have hidx : idx.val < cfg.fregCount := by simpa [indexDefect] using hindex
    cases wr with
    | false => exact ⟨view.frd idx, wf_frd.mpr ⟨hw, hidx⟩, encode_frd view idx⟩
    | true => exact ⟨view.fwr idx, wf_fwr.mpr ⟨hw, hidx⟩, encode_fwr view idx⟩
  | sreg wr idx =>
    have hlt : idx.val < 10 := by simpa [indexDefect] using hindex
    obtain ⟨f, rfl⟩ := Scalar.exists_idx hlt
    cases wr with
    | false => exact ⟨f.srd, wf_srd cfg f, encode_srd f⟩
    | true => exact ⟨f.swr, wf_swr cfg f, encode_swr f⟩
  | frc wr =>
    cases wr with
    | false => exact ⟨.frcTake, rfl, rfl⟩
    | true => exact ⟨.frcSet, rfl, rfl⟩

/-- R104: a word that decodes to a command has passed every test. -/
theorem no_defect_of_decode_ok {cfg : Config} {c : Cmd} {i : Instr} (h : decode cfg c = .ok i) :
    (fieldClass c).toNat < 5 ∧ ¬ fieldDefect c = true ∧ ¬ viewDefect cfg c = true
      ∧ ¬ indexDefect cfg c = true := by
  have hcls : (fieldClass c).toNat < 5 := by
    by_contra hcls
    simp [decode_of_class (not_lt.mp hcls)] at h
  have hfield : ¬ fieldDefect c = true := fun hfield => by
    simp [decode_of_fieldDefect hcls hfield] at h
  have hview : ¬ viewDefect cfg c = true := fun hview => by
    simp [decode_of_viewDefect hcls hfield hview] at h
  have hindex : ¬ indexDefect cfg c = true := fun hindex => by
    simp [decode_of_indexDefect hcls hfield hview hindex] at h
  exact ⟨hcls, hfield, hview, hindex⟩

theorem decode_eq_ok_iff {cfg : Config} {c : Cmd} {i : Instr} :
    decode cfg c = .ok i ↔ i.wf cfg = true ∧ encode i = c := by
  constructor
  · intro h
    obtain ⟨hcls, hfield, hview, hindex⟩ := no_defect_of_decode_ok h
    obtain ⟨j, hj, rfl⟩ := exists_encode_of_no_defect hcls hfield hview hindex
    obtain rfl : j = i := by simpa [decode_encode_of_wf hj] using h
    exact ⟨hj, rfl⟩
  · rintro ⟨h, rfl⟩
    exact decode_encode_of_wf h

/-- Settles O17: the two directions are the two halves of `decode_eq_ok_iff`. -/
theorem decodeEncodeAgree : Obligations.DecodeEncodeAgree := fun _ _ _ => decode_eq_ok_iff

end Sys2Proof.Machine
end

section
/-! PROOF of O25 and O26 (R49, R90, R192). Each operation keeps the width of the element it writes:
a register by `viewPut_lt`, a scalar field by `truncTo_lt`, the recovery context by the width of the
snapshot input; a reset writes ones(XLEN) and zeros. -/

namespace Sys2Proof.Machine

theorem reset_wf (cfg : Config) : (Arch.reset cfg).wf cfg := by
  have hzero : ∀ n, fits n 0 := fun n => by simp
  have hlr : fits cfg.xlen.bits (Arch.reset cfg).lr := by
    rw [fits, reset_lr_toNat]
    exact Nat.sub_lt (Nat.two_pow_pos _) one_pos
  have hireg : ∀ i : RegIdx, fits cfg.xlen.bits (Arch.reset cfg).ireg[i] := fun i => by
    rw [reset_ireg]
    exact hzero _
  have hfreg : ∀ i : RegIdx, fits cfg.flen.bits (Arch.reset cfg).freg[i] := fun i => by
    rw [reset_freg]
    exact hzero _
  exact ⟨hzero _, hireg, fun i _ => reset_ireg cfg i, hfreg, fun i _ => reset_freg cfg i, hlr,
    hzero _, hzero _, nofun⟩

/-- What holds of every register still holds after a write, when it holds of the value written. -/
theorem forall_getElem_set {P : RegIdx → Word → Prop} {r : Vector Word 32} {i : RegIdx} {v : Word}
    (h : ∀ j : RegIdx, P j r[j]) (hv : P i v) (j : RegIdx) : P j (r.set i v)[j] := by
  by_cases hij : i = j
  · subst hij
    simpa using hv
  · have hval : i.val ≠ j.val := fun h => hij (Fin.ext h)
    simpa [Vector.getElem_set_ne _ _ hval] using h j

section ArchWf

variable {cfg : Config} {a : Arch}

theorem wf_set_ireg (h : a.wf cfg) {i : RegIdx} {v : Word} (hi : i.val < cfg.iregCount)
    (hv : fits cfg.xlen.bits v) : Arch.wf cfg { a with ireg := a.ireg.set i v } := by
  obtain ⟨hpc, hireg, hirest, hrest⟩ := h
  exact ⟨hpc, forall_getElem_set (P := fun _ w => fits cfg.xlen.bits w) hireg hv,
    forall_getElem_set (P := fun j w => cfg.iregCount ≤ j.val → w = 0) hirest
      (fun hle => absurd hi hle.not_gt), hrest⟩

theorem wf_set_freg (h : a.wf cfg) {i : RegIdx} {v : Word} (hi : i.val < cfg.fregCount)
    (hv : fits cfg.flen.bits v) : Arch.wf cfg { a with freg := a.freg.set i v } := by
  obtain ⟨hpc, hireg, hirest, hfreg, hfrest, hrest⟩ := h
  exact ⟨hpc, hireg, hirest, forall_getElem_set (P := fun _ w => fits cfg.flen.bits w) hfreg hv,
    forall_getElem_set (P := fun j w => cfg.fregCount ≤ j.val → w = 0) hfrest
      (fun hle => absurd hi hle.not_gt), hrest⟩

/-- R151: the fields of XLEN bits receive XLEN bits. -/
theorem wf_putScalar (h : a.wf cfg) (f : Scalar) (v : Word) :
    (a.putScalar cfg.xlen v f).wf cfg := by
  have hv : fits cfg.xlen.bits (truncTo cfg.xlen.bits v) := truncTo_lt _ v
  obtain ⟨hpc, hireg, hirest, hfreg, hfrest, hlr, hfault, hfcsr, hfrc⟩ := h
  cases f with
  | pc => exact ⟨hv, hireg, hirest, hfreg, hfrest, hlr, hfault, hfcsr, hfrc⟩
  | lr => exact ⟨hpc, hireg, hirest, hfreg, hfrest, hv, hfault, hfcsr, hfrc⟩
  | faultAddr => exact ⟨hpc, hireg, hirest, hfreg, hfrest, hlr, hv, hfcsr, hfrc⟩
  | fcsr => exact ⟨hpc, hireg, hirest, hfreg, hfrest, hlr, hfault, hv, hfrc⟩
  | nodeId | hartId | log | time | cycle | instret =>
    exact ⟨hpc, hireg, hirest, hfreg, hfrest, hlr, hfault, hfcsr, hfrc⟩

theorem wf_set_frc (h : a.wf cfg) {v : Option Snapshot} (hv : ∀ p ∈ v, p < 2 ^ cfg.frcBits) :
    Arch.wf cfg { a with frc := v } := by
  obtain ⟨hpc, hireg, hirest, hfreg, hfrest, hlr, hfault, hfcsr, -⟩ := h
  exact ⟨hpc, hireg, hirest, hfreg, hfrest, hlr, hfault, hfcsr, hv⟩

end ArchWf

theorem wf_respond {s : State} {d : Word} {e : ErrCode} {p : Snapshot} (h : s.wf)
    (hr : Response.wf s.cfg { rdata := d, err := e, frcOut := p }) : (s.respond d e p).wf := by
  obtain ⟨hcfg, harch, hport, hclient, -⟩ := h
  exact ⟨hcfg, harch, hport, hclient, fun r hmem => Option.some.inj hmem ▸ hr⟩

/-- R99: a command that leaves the block in `a` and reports success, with a snapshot output in
width. -/
theorem wf_write {s : State} {a : Arch} {d : Word} {p : Snapshot} (h : s.wf) (ha : a.wf s.cfg)
    (hp : p < 2 ^ s.cfg.frcBits) : (State.respond { s with arch := a } d .ok p).wf := by
  obtain ⟨hcfg, -, hport, hclient, hresp⟩ := h
  exact wf_respond ⟨hcfg, ha, hport, hclient, hresp⟩ ⟨hp, fun hne => absurd rfl hne⟩

theorem Answers.keeps_wf {s t : State} (h : Answers s (.next t)) (hs : s.wf) : t.wf := by
  have ⟨_, harch, hport, _⟩ := hs
  have h0 : 0 < 2 ^ s.cfg.frcBits := Nat.two_pow_pos _
  cases h with
  | responds d e hd => exact wf_respond hs ⟨h0, fun he => ⟨hd he, rfl⟩⟩
  | writesIreg size i hw hi =>
    exact wf_write hs (wf_set_ireg harch hi (viewPut_lt _ hw s.xlen_le_64 _ _)) h0
  | writesFreg view i hw hi =>
    exact wf_write hs (wf_set_freg harch hi (viewPut_lt _ hw s.flen_le_64 _ _)) h0
  | writesScalar f => exact wf_write hs (wf_putScalar harch f _) h0
  | establishes =>
    exact wf_write hs (wf_set_frc harch fun p hp => Option.some.inj hp ▸ hport) h0
  | consumes p hp =>
    have ⟨_, _, _, _, _, _, _, _, hfrc⟩ := harch
    exact wf_write hs (wf_set_frc harch nofun) (hfrc p hp)

theorem wf_takeCycle {s : State} (h : s.wf) : s.takeCycle.wf := by
  obtain ⟨hcfg, harch, hport, hclient, hresp⟩ := h
  obtain ⟨hport', hclient'⟩ :=
    takeCycle_port_wf (P := PortIn.wf s.cfg) hport (fun _ hc => hc) hclient
  rw [State.wf, takeCycle_cfg, takeCycle_arch, takeCycle_resp]
  exact ⟨hcfg, harch, hport', hclient', hresp⟩

theorem wf_afterReset {s : State} (h : s.wf) : s.afterReset.wf := by
  obtain ⟨hcfg, -, hport, hclient, -⟩ := h
  exact ⟨hcfg, reset_wf s.cfg, hport, hclient, nofun⟩

theorem wf_afterIdle {s : State} (h : s.wf) : s.afterIdle.wf := by
  obtain ⟨hcfg, harch, hport, hclient, -⟩ := h
  exact ⟨hcfg, harch, hport, hclient, nofun⟩

/-- Settles O25: the signals taken are well-formed, and so is what each kind of cycle makes of
them. -/
theorem wellFormedStateIsKept : Obligations.WellFormedStateIsKept := by
  intro s t hs h
  have hs' := wf_takeCycle hs
  obtain ⟨-, hstep⟩ | ⟨i, -, -, -, hstep⟩ | ⟨e, -, -, -, hstep⟩ | ⟨-, -, hstep⟩ := step_cases s
  case inl => exact Host.Outcome.next.inj (hstep.symm.trans h) ▸ wf_afterReset hs'
  case inr.inl =>
    have hans := exec_answers i s.takeCycle
    rw [← hstep, h] at hans
    exact hans.keeps_wf hs'
  case inr.inr.inl =>
    exact Answers.keeps_wf (h ▸ hstep ▸ Answers.err s.takeCycle e) hs'
  case inr.inr.inr => exact Host.Outcome.next.inj (hstep.symm.trans h) ▸ wf_afterIdle hs'

theorem wf_resetOf {cfg : Config} (h : cfg.wf) : (State.resetOf cfg).wf :=
  ⟨h, reset_wf cfg, Nat.two_pow_pos _, nofun, nofun⟩

/-- Settles O26: the elements after reset by `reset_wf`, the build of `State.reset` by evaluating
its parameters. -/
theorem resetStateIsWellFormed : Obligations.ResetStateIsWellFormed :=
  ⟨fun _ => wf_resetOf, wf_resetOf (by decide)⟩

end Sys2Proof.Machine
end

section
/-! PROOF of O21, O22, O23 and O27 (R91, R104, R192, R220). What each kind of cycle does, by the
signals it presents; and every kind completes. -/

namespace Sys2Proof.Machine

/-- R220: whatever command is presented. -/
theorem step_of_reset {s : State} (hrst : s.takeCycle.port.rst = true) :
    step s = .next s.takeCycle.afterReset := by
  simp [step, hrst]

/-- R91: no command is presented. -/
theorem step_of_idle {s : State} (hrst : s.takeCycle.port.rst = false)
    (hvalid : s.takeCycle.port.cmdValid = false) : step s = .next s.takeCycle.afterIdle := by
  simp [step, hrst, hvalid]

/-- R104: a word that spells a command performs it. -/
theorem step_of_decode_ok {s : State} {i : Instr} (hrst : s.takeCycle.port.rst = false)
    (hvalid : s.takeCycle.port.cmdValid = true)
    (hdecode : decode s.cfg s.takeCycle.port.cmd = .ok i) :
    step s = exec i s.takeCycle := by
  simp [step, hrst, hvalid, hdecode]

/-- Settles O21: `step_of_decode_ok` at the cycle that is first in the stream. -/
theorem stepPerformsDecodedCommand : Obligations.StepPerformsDecodedCommand := by
  intro s c rest i hc hrst hvalid hdecode
  have htake := takeCycle_cons hc
  rw [← htake]
  exact step_of_decode_ok (by rw [htake, hrst]) (by rw [htake, hvalid]) (by rw [htake, hdecode])

/-- Settles O22: `step_of_decode_error` at the cycle that is first in the stream. -/
theorem stepAnswersErrorWords : Obligations.StepAnswersErrorWords := by
  intro s c rest e hc hrst hvalid hdecode
  have htake := takeCycle_cons hc
  rw [← htake]
  exact step_of_decode_error (by rw [htake, hrst]) (by rw [htake, hvalid]) (by rw [htake, hdecode])

/-- R221, R222: the reset state, `lr` given as the number ones(XLEN). -/
theorem reset_eq (cfg : Config) : Arch.reset cfg =
    { pc := 0, ireg := Vector.replicate 32 0, freg := Vector.replicate 32 0, nodeId := 0,
      hartId := 0, log := 0, lr := BitVec.ofNat 64 (2 ^ cfg.xlen.bits - 1), faultAddr := 0,
      frc := none, time := 0, cycle := 0, instret := 0, fcsr := 0 } := by
  have hlr : (Arch.reset cfg).lr = BitVec.ofNat 64 (2 ^ cfg.xlen.bits - 1) := by
    rw [← reset_lr_toNat, BitVec.ofNat_toNat, BitVec.setWidth_eq]
  rw [← hlr]
  rfl

/-- Settles O23: a clause for each of the two kinds of cycle, and the idle one at the end of the
stream. -/
theorem resetWinsAndIdleKeeps : Obligations.ResetWinsAndIdleKeeps := by
  refine fun s => ⟨fun c rest hc => ⟨fun hrst => ?reset, fun hrst hvalid => ?idle⟩,
    fun hc => ?ended⟩
  case reset =>
    have htake := takeCycle_cons hc
    rw [step_of_reset (by rw [htake, hrst]), htake, State.afterReset, reset_eq]
  case idle =>
    have htake := takeCycle_cons hc
    rw [step_of_idle (by rw [htake, hrst]) (by rw [htake, hvalid]), htake, State.afterIdle]
  case ended =>
    have htake := takeCycle_nil hc
    exact ⟨_, step_of_idle (by rw [htake]) (by rw [htake]), takeCycle_arch s, by simp [htake, hc],
      rfl⟩

/-- A command completes, responds, and changes nothing around the block. -/
theorem Answers.completes {s : State} {o : Out} (h : Answers s o) : ∃ t r, o = .next t
    ∧ t.cfg = s.cfg ∧ t.client = s.client ∧ t.resp = some r := by
  cases h <;> exact ⟨_, _, rfl, rfl, rfl, rfl⟩

@[simp] theorem takeCycle_client (s : State) : s.takeCycle.client = s.client.tail := by
  cases hc : s.client with
  | nil => rw [takeCycle_nil hc, hc, List.tail_nil]
  | cons c rest => rw [takeCycle_cons hc, List.tail_cons]

/-- R191: codes 6 and 7 are never produced. -/
theorem errCode_code_le (e : ErrCode) : e.code.toNat ≤ 5 := by
  cases e <;> decide

/-- Settles O27: the four kinds of cycle. -/
theorem everyCycleCompletes : Obligations.EveryCycleCompletes := by
  intro s
  obtain ⟨hr, hstep⟩ | ⟨i, -, -, -, hstep⟩ | ⟨e, -, -, -, hstep⟩ | ⟨-, hv, hstep⟩ := step_cases s
  case inl =>
    exact ⟨_, hstep, takeCycle_cfg s, fun hr' => by simp [hr] at hr', takeCycle_client s⟩
  case inr.inl =>
    obtain ⟨t, r, ht, hcfg, hclient, hresp⟩ := (exec_answers i s.takeCycle).completes
    exact ⟨t, hstep.trans ht, hcfg.trans (takeCycle_cfg s),
      fun _ _ => ⟨r, hresp, errCode_code_le r.err⟩, hclient.trans (takeCycle_client s)⟩
  case inr.inr.inl =>
    exact ⟨_, hstep, takeCycle_cfg s, fun _ _ => ⟨_, rfl, errCode_code_le e⟩, takeCycle_client s⟩
  case inr.inr.inr =>
    exact ⟨_, hstep, takeCycle_cfg s, fun _ hv' => by simp [hv] at hv', takeCycle_client s⟩

end Sys2Proof.Machine
end

section
/-! SUPPORT. Which element of the block a command, and so a cycle without reset, can change: the one
it names, or none. -/

namespace Sys2Proof.Machine

/-- The states of the block that command `i` can leave from `s`. -/
inductive Changes (s : State) : Instr → Arch → Prop where
  | nothing (i : Instr) : Changes s i s.arch
  | ireg (size : Size) (sign : Sign) (j : RegIdx) (v : Word) :
      Changes s (size.iwr sign j) (s.setIreg j v).arch
  | freg (view : FView) (j : RegIdx) (v : Word) : Changes s (view.fwr j) (s.setFreg j v).arch
  | scalar (f : Scalar) : Changes s f.swr (s.setScalar f s.port.wdata).arch
  | frc (i : Instr) (v : Option Snapshot) (hi : i = .frcSet ∨ i = .frcTake) :
      Changes s i (s.setFrc v).arch

theorem Changes.of_respond {s s' t : State} {i : Instr} {o : Out} {d : Word} {e : ErrCode}
    {p : Snapshot} (hc : Changes s i s'.arch) (ho : o = .next (s'.respond d e p))
    (h : o = .next t) : Changes s i t.arch := by
  obtain rfl := Host.Outcome.next.inj (ho.symm.trans h)
  exact hc

theorem exec_changes {i : Instr} {s t : State} (h : exec i s = .next t) : Changes s i t.arch := by
  cases instr_form i with
  | ird size sign j =>
    rw [(Performs.readsIreg size sign j).arch_of_read (exec_ird size sign j s ▸ h)]
    exact .nothing _
  | iwr size sign j =>
    rw [exec_iwr] at h
    cases hd : iregDefect s size.bits j with
    | some e => exact .of_respond (.nothing _) (writeIreg_of_defect hd) h
    | none =>
      obtain ⟨hw, hj⟩ := iregDefect_eq_none.mp hd
      exact .of_respond (.ireg size sign j _) (writeIreg_of_exists hw hj) h
  | frd view j =>
    rw [(Performs.readsFreg view j).arch_of_read (exec_frd view j s ▸ h)]
    exact .nothing _
  | fwr view j =>
    rw [exec_fwr] at h
    cases hd : fregDefect s (view.bits s.cfg.flen) j with
    | some e => exact .of_respond (.nothing _) (writeFreg_of_defect hd) h
    | none =>
      obtain ⟨hw, hj⟩ := fregDefect_eq_none.mp hd
      exact .of_respond (.freg view j _) (writeFreg_of_exists hw hj) h
  | srd f => exact .of_respond (.nothing _) (readScalar_eq f s) (exec_srd f s ▸ h)
  | swr f => exact .of_respond (.scalar f) (writeScalar_eq f s) (exec_swr f s ▸ h)
  | frcTake =>
    rw [exec_frcTake] at h
    cases hf : s.arch.frc with
    | none => exact .of_respond (.nothing _) (takeRecovery_none hf) h
    | some p => exact .of_respond (.frc _ none (.inr rfl)) (takeRecovery_some hf) h
  | frcSet =>
    exact .of_respond (.frc _ (some s.port.frcIn) (.inl rfl)) (establishRecovery_eq s) h
  | nop => exact .of_respond (.nothing _) (respondOk_eq 0 s) h

/-- R151: a write of one field leaves the others. -/
theorem scalar_putScalar_of_ne {f g : Scalar} (hne : g ≠ f) (x : XLen) (a : Arch) (v : Word) :
    (a.putScalar x v g).scalar f = a.scalar f := by
  cases f <;> simp [Arch.scalar, hne]

theorem scalar_setIreg (s : State) (j : RegIdx) (v : Word) (f : Scalar) :
    (s.setIreg j v).arch.scalar f = s.arch.scalar f := by
  cases f <;> rfl

theorem scalar_setFreg (s : State) (j : RegIdx) (v : Word) (f : Scalar) :
    (s.setFreg j v).arch.scalar f = s.arch.scalar f := by
  cases f <;> rfl

theorem scalar_setFrc (s : State) (v : Option Snapshot) (f : Scalar) :
    (s.setFrc v).arch.scalar f = s.arch.scalar f := by
  cases f <;> rfl

section Kept

variable {s : State} {i : Instr} {a : Arch}

theorem Changes.scalar_kept_or_written (h : Changes s i a) (f : Scalar) :
    a.scalar f = s.arch.scalar f
      ∨ (i = f.swr ∧ a = s.arch.putScalar s.cfg.xlen s.port.wdata f) := by
  cases h with
  | nothing => exact .inl rfl
  | ireg size sign j v => exact .inl (scalar_setIreg s j v f)
  | freg view j v => exact .inl (scalar_setFreg s j v f)
  | scalar g =>
    by_cases hgf : g = f
    · subst hgf
      exact .inr ⟨rfl, rfl⟩
    · exact .inl (scalar_putScalar_of_ne hgf s.cfg.xlen s.arch s.port.wdata)
  | frc i v => exact .inl (scalar_setFrc s v f)

theorem Changes.scalar_kept (h : Changes s i a) {f : Scalar} (hi : i ≠ f.swr) :
    a.scalar f = s.arch.scalar f :=
  (h.scalar_kept_or_written f).resolve_right fun hw => hi hw.1

theorem Changes.frc_kept (h : Changes s i a) (hset : i ≠ .frcSet) (htake : i ≠ .frcTake) :
    a.frc = s.arch.frc := by
  cases h with
  | nothing | ireg | freg => rfl
  | scalar f => exact putScalar_frc ..
  | frc i v hi => exact absurd hi (not_or.mpr ⟨hset, htake⟩)

theorem getElem_set_of_ne (r : Vector Word 32) {i j : RegIdx} (v : Word) (hne : i ≠ j) :
    (r.set i v)[j] = r[j] :=
  Vector.getElem_set_ne _ _ fun h => hne (Fin.ext h)

theorem Changes.ireg_kept (h : Changes s i a) {j : RegIdx}
    (hi : ∀ size sign, i ≠ Size.iwr size sign j) : a.ireg[j] = s.arch.ireg[j] := by
  cases h with
  | nothing | freg | frc => rfl
  | ireg size sign k v => exact getElem_set_of_ne _ v fun hkj => hi size sign (by rw [hkj])
  | scalar f => rw [setScalar_arch, putScalar_ireg]

theorem Changes.freg_kept (h : Changes s i a) {j : RegIdx} (hi : ∀ view, i ≠ FView.fwr view j) :
    a.freg[j] = s.arch.freg[j] := by
  cases h with
  | nothing | ireg | frc => rfl
  | freg view k v => exact getElem_set_of_ne _ v fun hkj => hi view (by rw [hkj])
  | scalar f => rw [setScalar_arch, putScalar_freg]

end Kept

/-- A cycle without reset leaves the block as it was, or presents the word of a command that changes
it. -/
theorem step_changes {s t : State} (hrst : s.takeCycle.port.rst = false) (h : step s = .next t) :
    t.arch = s.arch ∨ ∃ i, s.presents (encode i) ∧ Changes s.takeCycle i t.arch := by
  obtain ⟨hr, -⟩ | ⟨i, -, hv, hdecode, hstep⟩ | ⟨e, -, -, -, hstep⟩ | ⟨-, -, hstep⟩ := step_cases s
  case inl => simp [hrst] at hr
  case inr.inl =>
    obtain ⟨-, hword⟩ := decode_eq_ok_iff.mp hdecode
    exact .inr ⟨i, ⟨hrst, hv, hword.symm⟩, exec_changes (hstep.symm.trans h)⟩
  case inr.inr.inl =>
    obtain rfl := Host.Outcome.next.inj (hstep.symm.trans h)
    exact .inl (takeCycle_arch s)
  case inr.inr.inr =>
    obtain rfl := Host.Outcome.next.inj (hstep.symm.trans h)
    exact .inl (takeCycle_arch s)

/-- R79: over a cycle without reset a scalar field keeps its value, or its own `SWR` is presented
and it receives `wdata`. -/
theorem step_scalar_kept_or_written {s t : State} (hrst : s.takeCycle.port.rst = false)
    (h : step s = .next t) (f : Scalar) :
    t.arch.scalar f = s.arch.scalar f
      ∨ (s.presents (encode f.swr)
        ∧ t.arch = s.arch.putScalar s.cfg.xlen s.takeCycle.port.wdata f) := by
  obtain harch | ⟨i, hpres, hch⟩ := step_changes hrst h
  · exact .inl (by rw [harch])
  · have hf := hch.scalar_kept_or_written f
    rw [takeCycle_arch, takeCycle_cfg] at hf
    exact hf.imp_right fun ⟨hi, ha⟩ => ⟨hi ▸ hpres, ha⟩

theorem step_frc_kept {s t : State} (hrst : s.takeCycle.port.rst = false) (h : step s = .next t)
    (hset : s.takeCycle.port.cmd ≠ encode .frcSet)
    (htake : s.takeCycle.port.cmd ≠ encode .frcTake) :
    t.arch.frc = s.arch.frc := by
  obtain harch | ⟨i, ⟨-, -, hword⟩, hch⟩ := step_changes hrst h
  · rw [harch]
  · rw [hch.frc_kept (fun hi => hset (hi ▸ hword)) (fun hi => htake (hi ▸ hword)), takeCycle_arch]

end Sys2Proof.Machine
end

section
/-! PROOF of O33 (R79, R27, R46, R44). By induction on the cycles presented: the first keeps the
field and the recovery context by the laws of one cycle, the rest by the induction hypothesis. -/

namespace Sys2Proof.Machine

/-- The word of R102. -/
theorem encode_swr_eq (f : Scalar) : encode f.swr = BitVec.ofNat 16 (0x3800 + f.index) := by
  cases f <;> rfl

theorem run_succ_of_step {s t : State} (h : step s = .next t) (k : Nat) :
    Host.Core.run Sys2Proof.core (k + 1) s = Host.Core.run Sys2Proof.core k t := by
  have hrun : ∀ (M : Host.Core) (a b : M.State), M.step a = .next b → M.run (k + 1) a = M.run k b :=
    fun M a b hab => by rw [Host.Core.run, hab]
  exact hrun Sys2Proof.core s t h

/-- Settles O33. -/
theorem fieldKeepsItsValueBetweenWrites : Obligations.FieldKeepsItsValueBetweenWrites := by
  intro cs rest
  induction cs with
  | nil => exact fun s hc _ => ⟨s, rfl, hc, fun _ _ => rfl, fun _ => rfl⟩
  | cons c cs ih =>
    intro s hc hrst
    obtain ⟨hrst₀, hrst⟩ := List.forall_mem_cons.mp hrst
    obtain ⟨u, hu, -, -, hclient⟩ := everyCycleCompletes s
    have hport : s.takeCycle.port = c := by rw [takeCycle_cons hc]
    obtain ⟨t, ht, htc, hscalar, hfrc⟩ := ih u (by rw [hclient, hc]; rfl) hrst
    refine ⟨t, (run_succ_of_step hu cs.length).trans ht, htc, fun f hf => ?_, fun hf => ?_⟩
    · obtain ⟨hf₀, hf⟩ := List.forall_mem_cons.mp hf
      refine (hscalar f hf).trans ?_
      refine (step_scalar_kept_or_written (hport ▸ hrst₀) hu f).resolve_right ?_
      rintro ⟨⟨-, -, hword⟩, -⟩
      exact hf₀ (by rw [← hport, hword, encode_swr_eq])
    · obtain ⟨⟨htake, hset⟩, hf⟩ := List.forall_mem_cons.mp hf
      exact (hfrc hf).trans (step_frc_kept (hport ▸ hrst₀) hu (hport ▸ hset) (hport ▸ htake))

end Sys2Proof.Machine
end

section
/-! PROOF of O29, O34 and O38: what is kept of each element by the commands that do not name it. -/

namespace Sys2Proof.Machine

/-- A field narrower than a word is determined by the word that holds it. -/
theorem setWidth_word_inj {w : Nat} (hw : w ≤ 64) {u v : BitVec w}
    (h : u.setWidth 64 = v.setWidth 64) : u = v := by
  have := congrArg (BitVec.setWidth w) h
  simpa [BitVec.setWidth_setWidth_of_le _ hw] using this

theorem iwr_mem (size : Size) (sign : Sign) (j : RegIdx) : size.iwr sign j ∈
    [Instr.iwrB j, .iwrH j, .iwrW j, .iwrD j, .iwrBU j, .iwrHU j, .iwrWU j, .iwrDU j] := by
  cases size <;> cases sign <;> simp [Size.iwr]

theorem fwr_mem (view : FView) (j : RegIdx) :
    view.fwr j ∈ [Instr.fwrX j, .fwrXU j, .fwrS j, .fwrD j] := by
  cases view <;> simp [FView.fwr]

/-- Settles O29: each clause is the rule `Changes` gives for one element. -/
theorem onlyNamedCommandsChangeAnElement : Obligations.OnlyNamedCommandsChangeAnElement := by
  intro i s t h
  have hch := exec_changes h
  exact ⟨hch.scalar_kept (f := .pc),
    fun hi => setWidth_word_inj (by decide) (hch.scalar_kept (f := .nodeId) hi),
    fun hi => setWidth_word_inj (by decide) (hch.scalar_kept (f := .hartId) hi),
    fun hi => setWidth_word_inj (by decide) (hch.scalar_kept (f := .log) hi),
    hch.scalar_kept (f := .lr), hch.scalar_kept (f := .faultAddr), hch.scalar_kept (f := .time),
    hch.scalar_kept (f := .cycle), hch.scalar_kept (f := .instret), hch.scalar_kept (f := .fcsr),
    hch.frc_kept,
    fun j hj => hch.ireg_kept fun size sign hi => hj (hi ▸ iwr_mem size sign j),
    fun j hj => hch.freg_kept fun view hi => hj (hi ▸ fwr_mem view j)⟩

/-- R46: a field that takes `wdata` whole does not decrease when what is written is not below it. -/
theorem scalar_le_of_step {s t : State} {f : Scalar} (hrst : s.takeCycle.port.rst = false)
    (h : step s = .next t)
    (hwhole : (s.arch.putScalar s.cfg.xlen s.takeCycle.port.wdata f).scalar f
      = s.takeCycle.port.wdata)
    (hduty : s.presents (encode f.swr) →
      (s.arch.scalar f).toNat ≤ s.takeCycle.port.wdata.toNat) :
    (s.arch.scalar f).toNat ≤ (t.arch.scalar f).toNat := by
  obtain hkept | ⟨hpres, harch⟩ := step_scalar_kept_or_written hrst h f
  · rw [hkept]
  · rw [harch, hwhole]
    exact hduty hpres

/-- Settles O34: the counters are fields of 64 bits. -/
theorem countersNeverDecreaseUnderClientDuty :
    Obligations.CountersNeverDecreaseUnderClientDuty := by
  rintro s t ⟨hrst, htime, hcycle, hinstret⟩ h
  exact ⟨scalar_le_of_step (f := .time) hrst h rfl htime,
    scalar_le_of_step (f := .cycle) hrst h rfl hcycle,
    scalar_le_of_step (f := .instret) hrst h rfl hinstret⟩

theorem noReservation_toNat (x : XLen) : (noReservation x).toNat = 2 ^ x.bits - 1 := by
  cases x <;> rfl

/-- R40. -/
theorem reservationHeld_iff (s : State) :
    s.reservationHeld = true ↔ s.arch.lr.toNat ≠ 2 ^ s.cfg.xlen.bits - 1 := by
  rw [State.reservationHeld, bne_iff_ne, ne_eq, ← BitVec.toNat_inj, noReservation_toNat]

/-- Settles O38: the write by its rule, the reset by R222, the other commands by `Changes`. -/
theorem reservationHeldUnlessAllOnes : Obligations.ReservationHeldUnlessAllOnes := by
  refine ⟨fun s => ⟨_, writeScalar_eq .lr s, ?written⟩, fun cfg => ?reset,
    fun i s t hi h => ?kept⟩
  case written =>
    rw [reservationHeld_iff, respond_arch, respond_cfg, setScalar_cfg, setScalar_arch,
      putScalar_lr, if_pos rfl, truncTo_toNat]
  case reset =>
    rw [← Bool.not_eq_true, reservationHeld_iff, not_not]
    exact reset_lr_toNat cfg
  case kept =>
    obtain ⟨t', -, ht, hcfg, -⟩ := (exec_answers i s).completes
    obtain rfl := Host.Outcome.next.inj (ht.symm.trans h)
    have hlr : t'.arch.lr = s.arch.lr := (exec_changes h).scalar_kept (f := .lr) hi
    rw [State.reservationHeld, State.reservationHeld, hlr, hcfg]

end Sys2Proof.Machine
end

section
/-! PROOF of O18 and O16 (R100 to R104). Each row of the opcode map holds the word of its command
under its mask, so a word that matches a row is the word of the row's command; two rows disagree on
a bit that both masks keep. -/

namespace Sys2Proof.Machine

/-- The mask `0xFFE0` and the index field `cmd[4:0]` make up the word. -/
theorem and_mask_or_fieldIdx (c : Cmd) :
    c &&& 0xFFE0 ||| BitVec.ofNat 16 (fieldIdx c).val = c := by
  have hmask : ∀ k < 16, (0xFFE0 : Cmd).getLsbD k = decide (5 ≤ k) := by decide
  have hidx : ∀ k, (c.toNat % 32).testBit k = (decide (k < 5) && c.toNat.testBit k) :=
    fun k => Nat.testBit_mod_two_pow c.toNat 5 k
  apply BitVec.eq_of_getLsbD_eq
  intro k hk
  rw [BitVec.getLsbD_or, BitVec.getLsbD_and, hmask k hk, BitVec.getLsbD_ofNat, fieldIdx_val, hidx]
  by_cases h5 : k < 5
  · simp [h5, hk, BitVec.getLsbD]
  · simp [h5, not_lt.mp h5]

/-- R100 to R103: a row keeps the whole word, or all of it but the index. -/
theorem encode_build_of_row : ∀ r ∈ opcodeRows,
    (r.mask = 0xFFFF#16 ∧ ∀ idx, encode (r.build idx) = r.matchBits)
    ∨ (r.mask = 0xFFE0#16
      ∧ ∀ idx : RegIdx, encode (r.build idx) = r.matchBits ||| BitVec.ofNat 16 idx.val) := by
  decide

/-- A word that matches a row is the word of the row's command. -/
theorem encode_of_rowCommand {c : Cmd} {i : Instr} (h : rowCommand c = some i) : encode i = c := by
  obtain ⟨r, hfind, rfl⟩ := Option.map_eq_some_iff.mp h
  have hmatch : c &&& r.mask = r.matchBits := by simpa using List.find?_some hfind
  obtain ⟨hmask, henc⟩ | ⟨hmask, henc⟩ :=
    encode_build_of_row r (List.mem_of_find?_eq_some hfind)
  · have hall : c &&& 0xFFFF#16 = c := BitVec.and_allOnes
    rw [henc, ← hmatch, hmask, hall]
  · rw [henc, ← hmatch, hmask]
    exact and_mask_or_fieldIdx c

theorem rowCommand_of_decode_ok {cfg : Config} {c : Cmd} {i : Instr} (h : decode cfg c = .ok i) :
    rowCommand c = some i := by
  obtain ⟨hcls, hfield, hview, hindex⟩ := no_defect_of_decode_ok h
  obtain ⟨j, hj, hrow⟩ := decode_of_no_defect hcls hfield hview hindex
  obtain rfl : j = i := by simpa [hj] using h
  exact hrow

/-- The two rows disagree on a bit that both masks keep. -/
theorem opcodeRows_disagree : opcodeRows.Pairwise fun a b =>
    a.matchBits &&& b.mask ≠ b.matchBits &&& a.mask := by
  decide

/-- Settles O18: the two directions, then the table by evaluation of its rows, not of the words. -/
theorem fieldDecoderMatchesOpcodeMap : Obligations.FieldDecoderMatchesOpcodeMap := by
  refine ⟨fun cfg c i => ⟨rowCommand_of_decode_ok, fun hrow hwf => ?_⟩, rfl,
    opcodeRows_disagree.imp fun {a b} hne c ⟨ha, hb⟩ => hne ?_⟩
  · exact decode_eq_ok_iff.mpr ⟨hwf, encode_of_rowCommand hrow⟩
  · rw [← ha, ← hb, BitVec.and_assoc, BitVec.and_assoc, BitVec.and_comm a.mask]

/-- Settles O16: thirteen closed words. -/
theorem decodedWordsSanity : Obligations.DecodedWordsSanity := by
  unfold Obligations.DecodedWordsSanity
  decide

end Sys2Proof.Machine
end

section
/-! PROOF of O20 (R96, R106, R62). A register access that does not exist has a defect; the decoder
and the operation both answer it, the view before the index. -/

namespace Sys2Proof.Machine

/-- The view of the command is wider than its register (R106), as O20 lists the commands. -/
def ViewMissing (cfg : Config) (i : Instr) : Prop :=
  (cfg.xlen = .x32 ∧ ∃ j, i ∈ [Instr.irdD j, .irdDU j, .iwrD j, .iwrDU j])
    ∨ (cfg.flen = .f32 ∧ ∃ j, i ∈ [Instr.frdD j, .fwrD j])

theorem XLen.ne_x64_iff {x : XLen} : x ≠ .x64 ↔ x = .x32 := by
  cases x <;> decide

theorem FLen.ne_f64_iff {x : FLen} : x ≠ .f64 ↔ x = .f32 := by
  cases x <;> decide

theorem Size.xlen_lt_bits_iff (size : Size) (x : XLen) :
    x.bits < size.bits ↔ x = .x32 ∧ size = .wide := by
  rw [← not_le, Size.bits_le_iff, Classical.not_imp, ← ne_eq, XLen.ne_x64_iff, and_comm]

theorem FView.flen_lt_bits_iff (view : FView) (x : FLen) :
    x.bits < view.bits x ↔ x = .f32 ∧ view = .double := by
  rw [← not_le, FView.bits_le_iff, Classical.not_imp, ← ne_eq, FLen.ne_f64_iff, and_comm]

theorem viewMissing_ird (cfg : Config) (size : Size) (sign : Sign) (j : RegIdx) :
    ViewMissing cfg (size.ird sign j) ↔ cfg.xlen.bits < size.bits := by
  rw [Size.xlen_lt_bits_iff, ViewMissing]
  cases size <;> cases sign <;> simp [Size.ird]

theorem viewMissing_iwr (cfg : Config) (size : Size) (sign : Sign) (j : RegIdx) :
    ViewMissing cfg (size.iwr sign j) ↔ cfg.xlen.bits < size.bits := by
  rw [Size.xlen_lt_bits_iff, ViewMissing]
  cases size <;> cases sign <;> simp [Size.iwr]

theorem viewMissing_frd (cfg : Config) (view : FView) (j : RegIdx) :
    ViewMissing cfg (view.frd j) ↔ cfg.flen.bits < view.bits cfg.flen := by
  rw [FView.flen_lt_bits_iff, ViewMissing]
  cases view <;> simp [FView.frd]

theorem viewMissing_fwr (cfg : Config) (view : FView) (j : RegIdx) :
    ViewMissing cfg (view.fwr j) ↔ cfg.flen.bits < view.bits cfg.flen := by
  rw [FView.flen_lt_bits_iff, ViewMissing]
  cases view <;> simp [FView.fwr]

/-- What O20 says of a command that does not exist. -/
def AnswersMissing (s : State) (i : Instr) : Prop :=
  ∃ e, decode s.cfg (encode i) = .error e ∧ exec i s = .next (s.answered 0 e 0)
    ∧ (e = .errView ∨ e = .errIndex) ∧ (e = .errView ↔ ViewMissing s.cfg i)

/-- An access whose width `w` and index `j` the decoder and the operation test in the same order
against the width `n` of the register and the count of the file, and which fails a test. -/
theorem answersMissing_of_tests {s : State} {i : Instr} {w n j count : Nat}
    {accepted : Except ErrCode Instr}
    (hdecode : decode s.cfg (encode i) =
      if w > n then .error .errView else if j ≥ count then .error .errIndex else accepted)
    (hexec : ∀ e, (if w > n then some .errView else if j ≥ count then some .errIndex else none)
      = some e → exec i s = .next (s.respond 0 e 0))
    (hview : ViewMissing s.cfg i ↔ n < w) (hmissing : ¬ (w ≤ n ∧ j < count)) :
    AnswersMissing s i := by
  by_cases hw : w > n
  · rw [if_pos hw] at hdecode hexec
    exact ⟨.errView, hdecode, hexec _ rfl, .inl rfl, iff_of_true rfl (hview.mpr hw)⟩
  · have hj : j ≥ count := not_lt.mp fun hj => hmissing ⟨not_lt.mp hw, hj⟩
    rw [if_neg hw, if_pos hj] at hdecode hexec
    exact ⟨.errIndex, hdecode, hexec _ rfl, .inr rfl, iff_of_false nofun (hview.not.mpr hw)⟩

theorem decode_ireg_tests {i : Instr} {wr : Bool} {size : Size} {sign : Sign} {j : RegIdx}
    (cfg : Config) (hword : encode i = c16 1 wr (size.viewCode sign) j) :
    decode cfg (encode i) =
      if size.bits > cfg.xlen.bits then .error .errView
      else if j.val ≥ cfg.iregCount then .error .errIndex
      else spelled (spellIreg wr (size.viewCode sign).toNat j) := by
  rw [hword, decode_c16_ireg, iviewBits_viewCode]

/-- R98, R104: the decoder's test of the view code is a test of the view's width. -/
theorem code_defect_iff (view : FView) (x : FLen) :
    (view.code.toNat ≥ 4 ∨ (view.code = 3 ∧ x = .f32)) ↔ view.bits x > x.bits := by
  have hlt : ¬ view.code.toNat ≥ 4 := view.code_toNat_lt.not_ge
  rw [gt_iff_lt, FView.flen_lt_bits_iff, FView.code_eq_three_iff, and_comm, or_iff_right hlt]

theorem decode_freg_tests {i : Instr} {wr : Bool} {view : FView} {j : RegIdx} (cfg : Config)
    (hword : encode i = c16 2 wr view.code j) :
    decode cfg (encode i) =
      if view.bits cfg.flen > cfg.flen.bits then .error .errView
      else if j.val ≥ cfg.fregCount then .error .errIndex
      else spelled (spellFreg wr view.code.toNat j) := by
  simp only [hword, decode_c16_freg, code_defect_iff]

/-- Settles O20: only the register commands can be missing. -/
theorem missingCommandsAnswerTheDecodingError :
    Obligations.MissingCommandsAnswerTheDecodingError := by
  intro s i h
  have hwf : ¬ i.wf s.cfg = true := by simp [h]
  change AnswersMissing s i
  cases instr_form i with
  | ird size sign j =>
    exact answersMissing_of_tests (decode_ireg_tests s.cfg (encode_ird size sign j))
      (fun e hd => (exec_ird size sign j s).trans (readIreg_of_defect sign hd))
      (viewMissing_ird s.cfg size sign j) (wf_ird.not.mp hwf)
  | iwr size sign j =>
    exact answersMissing_of_tests (decode_ireg_tests s.cfg (encode_iwr size sign j))
      (fun e hd => (exec_iwr size sign j s).trans (writeIreg_of_defect hd))
      (viewMissing_iwr s.cfg size sign j) (wf_iwr.not.mp hwf)
  | frd view j =>
    exact answersMissing_of_tests (decode_freg_tests s.cfg (encode_frd view j))
      (fun e hd => (exec_frd view j s).trans (readFreg_of_defect hd))
      (viewMissing_frd s.cfg view j) (wf_frd.not.mp hwf)
  | fwr view j =>
    exact answersMissing_of_tests (decode_freg_tests s.cfg (encode_fwr view j))
      (fun e hd => (exec_fwr view j s).trans (writeFreg_of_defect hd))
      (viewMissing_fwr s.cfg view j) (wf_fwr.not.mp hwf)
  | srd f => exact absurd (wf_srd s.cfg f) hwf
  | swr f => exact absurd (wf_swr s.cfg f) hwf
  | frcTake => exact absurd rfl hwf
  | frcSet => exact absurd rfl hwf
  | nop => exact absurd rfl hwf

end Sys2Proof.Machine
end

section
/-! PROOF of O35 (R235, R190). A command that exists is performed; the take alone can then answer an
error, and only `ERR_NO_RECOVERY`. -/

namespace Sys2Proof.Machine

/-- The command completes with an `ok` response. -/
def Succeeds (i : Instr) (s : State) : Prop :=
  ∃ t r, exec i s = .next t ∧ t.resp = some r ∧ r.err = .ok

theorem Succeeds.of_respond {i : Instr} {s s' : State} {d : Word} {p : Snapshot}
    (h : exec i s = .next (s'.respond d .ok p)) : Succeeds i s :=
  ⟨_, _, h, rfl, rfl⟩

theorem succeeds_of_wf {i : Instr} {s : State} (h : i.wf s.cfg = true) (htake : i ≠ .frcTake) :
    Succeeds i s := by
  cases instr_form i with
  | ird size sign j =>
    obtain ⟨hw, hj⟩ := wf_ird.mp h
    exact .of_respond ((exec_ird size sign j s).trans (readIreg_of_exists sign hw hj))
  | iwr size sign j =>
    obtain ⟨hw, hj⟩ := wf_iwr.mp h
    exact .of_respond ((exec_iwr size sign j s).trans (writeIreg_of_exists hw hj))
  | frd view j =>
    obtain ⟨hw, hj⟩ := wf_frd.mp h
    exact .of_respond ((exec_frd view j s).trans (readFreg_of_exists hw hj))
  | fwr view j =>
    obtain ⟨hw, hj⟩ := wf_fwr.mp h
    exact .of_respond ((exec_fwr view j s).trans (writeFreg_of_exists hw hj))
  | srd f => exact .of_respond ((exec_srd f s).trans (readScalar_eq f s))
  | swr f => exact .of_respond ((exec_swr f s).trans (writeScalar_eq f s))
  | frcTake => exact absurd rfl htake
  | frcSet => exact .of_respond (establishRecovery_eq s)
  | nop => exact .of_respond (respondOk_eq 0 s)

/-- R103: no other command that exists has the word of the take. -/
theorem encode_eq_frcTake_word_iff {cfg : Config} {i : Instr} (h : i.wf cfg = true) :
    encode i = 0x4000#16 ↔ i = .frcTake := by
  constructor
  · intro hword
    have hi := decode_encode_of_wf h
    rw [hword, decode_frcTake_word] at hi
    exact (Except.ok.inj hi).symm
  · rintro rfl
    rfl

/-- Settles O35: every command but the take succeeds; the take does when a recovery point is
held. -/
theorem tableClientSeesOnlyNoRecovery : Obligations.TableClientSeesOnlyNoRecovery := by
  rintro s ⟨i, hwf, hrst, hvalid, hcmd⟩
  have hstep : step s = exec i s.takeCycle :=
    step_of_decode_ok hrst hvalid (by rw [hcmd, decode_encode_of_wf hwf])
  rw [hstep, hcmd, encode_eq_frcTake_word_iff hwf]
  by_cases htake : i = .frcTake
  · subst htake
    cases hf : s.arch.frc with
    | none =>
      exact ⟨_, _, takeRecovery_none (by rw [takeCycle_arch, hf]), rfl, .inr rfl, by simp⟩
    | some p =>
      exact ⟨_, _, takeRecovery_some (by rw [takeCycle_arch, hf]), rfl, .inl rfl, by simp⟩
  · obtain ⟨t, r, ht, hr, hok⟩ :=
      succeeds_of_wf (s := s.takeCycle) (by rw [takeCycle_cfg, hwf]) htake
    exact ⟨t, r, ht, hr, .inl hok, by simp [hok, htake]⟩

end Sys2Proof.Machine
end

section
/-! PROOF of O39 (R80, R211) and O32 (R110, R198). Both are steps that complete: of one hart in a
system, and of the two commands of `fault`. -/

namespace Sys2Proof.Machine

/-- Settles O39: the cycle of hart `k` replaces the entry at `k`, or does nothing past the end. -/
theorem hartsShareNothing : Obligations.HartsShareNothing := by
  intro y k
  cases hk : y.harts[k]? with
  | none => exact ⟨y, by rw [System.stepHart, hk], rfl, fun _ _ => rfl, nofun⟩
  | some s =>
    obtain ⟨t, ht, -⟩ := everyCycleCompletes s
    obtain ⟨hlt, -⟩ := List.getElem?_eq_some_iff.mp hk
    refine ⟨{ harts := y.harts.set k t }, ?step, List.length_set, fun j hj => ?others,
      fun s' hs' => ⟨t, ?_, List.getElem?_set_self hlt⟩⟩
    case step => rw [System.stepHart, hk]; simp [ht]
    case others => exact List.getElem?_set_ne hj.symm
    · obtain rfl := Option.some.inj hs'
      exact ht

/-- A cycle that presents a command the client issues performs it. -/
theorem step_of_command {s : State} {c : Command} {rest : List PortIn}
    (hc : s.client = c.cycle :: rest) (hwf : c.instr.wf s.cfg = true) :
    step s = exec c.instr { s with port := c.cycle, client := rest } :=
  stepPerformsDecodedCommand s c.cycle rest c.instr hc rfl rfl (decode_encode_of_wf hwf)

/-- R182: the recovery point is gone whether or not there was one, and the response tells which. -/
theorem takeRecovery_spec (s : State) : ∃ t, takeRecovery s = .next t
    ∧ t.arch = { s.arch with frc := none } ∧ t.client = s.client
    ∧ t.resp = some (match s.arch.frc with
      | some p => { rdata := 0, err := .ok, frcOut := p }
      | none => { rdata := 0, err := .errNoRecovery, frcOut := 0 }) := by
  obtain ⟨cfg, ⟨pc, ireg, freg, nodeId, hartId, log, lr, faultAddr, frc, time, cycle, instret,
    fcsr⟩, port, client, resp⟩ := s
  cases frc with
  | none => exact ⟨_, rfl, rfl, rfl, rfl⟩
  | some p => exact ⟨_, rfl, rfl, rfl, rfl⟩

/-- Settles O32: the write of `fault_addr`, then the take. -/
theorem faultSequenceRecordsAndTransfers : Obligations.FaultSequenceRecordsAndTransfers := by
  intro s addr
  refine ⟨rfl, ?_⟩
  obtain ⟨u, hu, harch, hclient⟩ :
      ∃ u, step (s.withCommands ((Pseudo.fault addr).expand s.cfg.xlen)) = .next u
        ∧ u.arch = s.arch.putScalar s.cfg.xlen addr .faultAddr
        ∧ u.client = Command.cycle { instr := .frcTake } :: s.client :=
    ⟨_, (step_of_command (c := { instr := .swrFault, wdata := addr }) rfl rfl).trans
      (writeScalar_eq .faultAddr _), rfl, rfl⟩
  obtain ⟨t, ht, htarch, htclient, htresp⟩ := takeRecovery_spec
    { u with port := Command.cycle { instr := .frcTake }, client := s.client }
  simp only [harch] at htarch htresp
  have htake : step u = .next t := (step_of_command hclient rfl).trans ht
  exact ⟨t, (run_succ_of_step hu 1).trans (run_succ_of_step htake 0), htarch, htclient, htresp⟩

end Sys2Proof.Machine
end

section
/-! PROOF of O31 (R35). No operation but the read of `log` looks at the mask: performed with another
mask, each does the same but for the mask. -/

namespace Sys2Proof.Machine

/-- `s` with its logging mask replaced. -/
def State.withLog (s : State) (m : BitVec 32) : State :=
  { s with arch := { s.arch with log := m } }

/-- `op` completes, and with another mask does the same but for the mask. -/
def IgnoresLog (op : State → Out) : Prop :=
  ∀ (s : State) (m : BitVec 32), ∃ u, op s = .next u ∧ op (s.withLog m) = .next (u.withLog m)

theorem readIreg_ignoresLog (size : Size) (sign : Sign) (j : RegIdx) :
    IgnoresLog (readIreg size sign j) := by
  intro s m
  cases hd : iregDefect s size.bits j with
  | some e =>
    exact ⟨_, readIreg_of_defect sign hd, readIreg_of_defect (s := s.withLog m) sign hd⟩
  | none =>
    obtain ⟨hw, hj⟩ := iregDefect_eq_none.mp hd
    exact ⟨_, readIreg_of_exists sign hw hj, readIreg_of_exists (s := s.withLog m) sign hw hj⟩

theorem writeIreg_ignoresLog (size : Size) (j : RegIdx) : IgnoresLog (writeIreg size j) := by
  intro s m
  cases hd : iregDefect s size.bits j with
  | some e => exact ⟨_, writeIreg_of_defect hd, writeIreg_of_defect (s := s.withLog m) hd⟩
  | none =>
    obtain ⟨hw, hj⟩ := iregDefect_eq_none.mp hd
    exact ⟨_, writeIreg_of_exists hw hj, writeIreg_of_exists (s := s.withLog m) hw hj⟩

theorem readFreg_ignoresLog (view : FView) (j : RegIdx) : IgnoresLog (readFreg view j) := by
  intro s m
  cases hd : fregDefect s (view.bits s.cfg.flen) j with
  | some e => exact ⟨_, readFreg_of_defect hd, readFreg_of_defect (s := s.withLog m) hd⟩
  | none =>
    obtain ⟨hw, hj⟩ := fregDefect_eq_none.mp hd
    exact ⟨_, readFreg_of_exists hw hj, readFreg_of_exists (s := s.withLog m) hw hj⟩

theorem writeFreg_ignoresLog (view : FView) (j : RegIdx) : IgnoresLog (writeFreg view j) := by
  intro s m
  cases hd : fregDefect s (view.bits s.cfg.flen) j with
  | some e => exact ⟨_, writeFreg_of_defect hd, writeFreg_of_defect (s := s.withLog m) hd⟩
  | none =>
    obtain ⟨hw, hj⟩ := fregDefect_eq_none.mp hd
    exact ⟨_, writeFreg_of_exists hw hj, writeFreg_of_exists (s := s.withLog m) hw hj⟩

theorem readScalar_ignoresLog {f : Scalar} (hf : f ≠ .log) : IgnoresLog (readScalar f) := by
  intro s m
  have hlog : (s.withLog m).arch.scalar f = s.arch.scalar f := by
    cases f with
    | log => exact absurd rfl hf
    | _ => rfl
  refine ⟨_, readScalar_eq f s, (readScalar_eq f (s.withLog m)).trans ?_⟩
  rw [hlog]
  rfl

theorem writeScalar_ignoresLog {f : Scalar} (hf : f ≠ .log) : IgnoresLog (writeScalar f) := by
  intro s m
  refine ⟨_, writeScalar_eq f s, (writeScalar_eq f (s.withLog m)).trans ?_⟩
  cases f with
  | log => exact absurd rfl hf
  | _ => rfl

theorem takeRecovery_ignoresLog : IgnoresLog takeRecovery := by
  intro s m
  cases hf : s.arch.frc with
  | none => exact ⟨_, takeRecovery_none hf, takeRecovery_none (s := s.withLog m) hf⟩
  | some p => exact ⟨_, takeRecovery_some hf, takeRecovery_some (s := s.withLog m) hf⟩

theorem exec_ignoresLog {i : Instr} (hread : i ≠ .srdLog) (hwrite : i ≠ .swrLog) :
    IgnoresLog (exec i) := by
  cases instr_form i with
  | ird size sign j => exact funext (exec_ird size sign j) ▸ readIreg_ignoresLog size sign j
  | iwr size sign j => exact funext (exec_iwr size sign j) ▸ writeIreg_ignoresLog size j
  | frd view j => exact funext (exec_frd view j) ▸ readFreg_ignoresLog view j
  | fwr view j => exact funext (exec_fwr view j) ▸ writeFreg_ignoresLog view j
  | srd f =>
    exact funext (exec_srd f) ▸ readScalar_ignoresLog fun hf => hread (congrArg Scalar.srd hf)
  | swr f =>
    exact funext (exec_swr f) ▸ writeScalar_ignoresLog fun hf => hwrite (congrArg Scalar.swr hf)
  | frcTake => exact takeRecovery_ignoresLog
  | frcSet => exact fun s _ => ⟨_, establishRecovery_eq s, rfl⟩
  | nop => exact fun s _ => ⟨_, respondOk_eq 0 s, rfl⟩

/-- Settles O31: `SWR.LOG` replaces the mask whatever it was; the others ignore it. -/
theorem loggingMaskHasNoEffect : Obligations.LoggingMaskHasNoEffect := by
  intro s t m i hread h
  by_cases hwrite : i = .swrLog
  · subst hwrite
    obtain rfl := Host.Outcome.next.inj ((exec_swrLog s).symm.trans h)
    rfl
  · obtain ⟨u, hu, hm⟩ := exec_ignoresLog hread hwrite s m
    obtain rfl := Host.Outcome.next.inj (hu.symm.trans h)
    rw [if_neg hwrite]
    exact hm

end Sys2Proof.Machine
end

section
/-! PROOF of O10, O11 and O14 (R65, R67, R68, R76, R232): the integer commands of a narrow view bit
by bit, and the read after the write of any view. -/

namespace Sys2Proof.Machine

/-- R67, R99: bit `k` of what a read presents is the aliased bit, or above the view 0 or its top
bit. -/
theorem present_viewGet_getLsbD {n w k : Nat} (order : ByteOrder) (r : Word) (hw : 0 < w)
    (hk : k < 64) :
    (present .unsigned (viewGet order n w r)).getLsbD k
        = (if k < w then r.getLsbD (viewOffset order n w + k) else false)
      ∧ (present .signed (viewGet order n w r)).getLsbD k
        = (if k < w then r.getLsbD (viewOffset order n w + k)
            else r.getLsbD (viewOffset order n w + (w - 1))) := by
  have hlast : w - 1 < w := Nat.sub_lt hw one_pos
  rw [present_unsigned_getLsbD _ k hk, present_signed_getLsbD _ k hk,
    BitVec.msb_eq_getLsbD_last, viewGet_getLsbD order r hlast]
  by_cases hkw : k < w
  · simp only [hkw, if_true, viewGet_getLsbD order r hkw, and_self]
  · simp [hkw, BitVec.getLsbD_of_ge _ k (not_lt.mp hkw)]

theorem Size.bits_pos (size : Size) : 0 < size.bits := by
  cases size <;> decide

/-- The narrow views with the signed and the unsigned command of each. -/
def narrowCommands (command : Size → Sign → RegIdx → Instr) (i : RegIdx) :
    List (Nat × Instr × Instr) :=
  [Size.byte, .half, .word].map fun size =>
    (size.bits, command size .signed i, command size .unsigned i)

theorem exists_size_of_mem_narrowCommands {command : Size → Sign → RegIdx → Instr} {i : RegIdx}
    {w : Nat} {signed unsigned : Instr} (h : (w, signed, unsigned) ∈ narrowCommands command i) :
    ∃ size : Size, size ≠ .wide ∧ w = size.bits ∧ signed = command size .signed i
      ∧ unsigned = command size .unsigned i := by
  obtain ⟨size, hmem, heq⟩ := List.mem_map.mp h
  obtain ⟨rfl, rfl, rfl⟩ : size.bits = w ∧ command size .signed i = signed
      ∧ command size .unsigned i = unsigned := by simpa using heq
  exact ⟨size, by rintro rfl; simp at hmem, rfl, rfl, rfl⟩

/-- Settles O10: `viewOffset` is where the statement puts the aliased bits in either byte order. -/
theorem narrowReadsTakeAliasedBits : Obligations.NarrowReadsTakeAliasedBits := by
  intro s i w signed unsigned hi hmem
  obtain ⟨size, hsize, rfl, rfl, rfl⟩ :=
    exists_size_of_mem_narrowCommands (command := Size.ird) hmem
  have hw := Size.bits_le_xlen s hsize
  refine ⟨_, _, (exec_ird size .signed i s).trans (readIreg_of_exists .signed hw hi),
    (exec_ird size .unsigned i s).trans (readIreg_of_exists .unsigned hw hi), fun k hk => ?_⟩
  have hbits := present_viewGet_getLsbD (n := s.xlen) s.cfg.order s.arch.ireg[i] size.bits_pos hk
  cases horder : s.cfg.order <;> simpa [horder, viewOffset, State.xlen] using hbits

/-- R68 on a register in width, bit by bit. -/
theorem viewPut_getLsbD_of_fits {n w : Nat} {r : Word} (order : ByteOrder) (hw : w ≤ n)
    (hn : n ≤ 64) (hr : fits n r) (v : Word) (k : Nat) :
    (viewPut order n w r (v.setWidth w)).getLsbD k = match order with
      | .little => if k < w then v.getLsbD k else r.getLsbD k
      | .big => if n - w ≤ k ∧ k < n then v.getLsbD (k - (n - w)) else r.getLsbD k := by
  have habove : n ≤ k → r.getLsbD k = false := getLsbD_of_fits hr
  cases order with
  | little =>
    rw [viewPut_little_getLsbD hw hn]
    by_cases hkw : k < w
    · simp [hkw]
    · by_cases hkn : k < n
      · simp [hkw, hkn]
      · simp [hkw, hkn, habove (not_lt.mp hkn)]
  | big =>
    rw [viewPut_big_getLsbD hw hn]
    by_cases hlow : k < n - w
    · simp [hlow, hlow.not_ge]
    · by_cases hkn : k < n
      · have hin : k - (n - w) < w := by omega
        simp [hlow, hkn, hin, not_lt.mp hlow]
      · have hout : ¬ k - (n - w) < w := by omega
        simp [hlow, hkn, hout, habove (not_lt.mp hkn)]

/-- Settles O11: the register's width from the invariant, the bits by R68. -/
theorem narrowWritesKeepOtherBits : Obligations.NarrowWritesKeepOtherBits := by
  rintro s i w signed unsigned ⟨-, ⟨-, hireg, -⟩, -⟩ hi hmem
  obtain ⟨size, hsize, rfl, rfl, rfl⟩ :=
    exists_size_of_mem_narrowCommands (command := Size.iwr) hmem
  have hw := Size.bits_le_xlen s hsize
  refine ⟨_, (exec_iwr size .signed i s).trans (writeIreg_of_exists hw hi),
    (exec_iwr size .unsigned i s).trans (exec_iwr size .signed i s).symm, fun k _ => ?_⟩
  exact viewPut_getLsbD_of_fits s.cfg.order hw s.xlen_le_64 (hireg i) s.port.wdata k

/-- R232, R69 (a): the read of the register just written through the same view. -/
theorem readIreg_after_write {s : State} {size : Size} {i : RegIdx} (sign : Sign) (old : Word)
    (v : BitVec size.bits) (hw : size.bits ≤ s.xlen) (hi : i.val < s.cfg.iregCount) :
    let t := (s.setIreg i (viewPut s.cfg.order s.xlen size.bits old v)).respond 0 .ok 0
    readIreg size sign i t = .next (t.answered (present sign v) .ok 0) := by
  intro t
  have hreg : t.arch.ireg[i] = viewPut s.cfg.order s.xlen size.bits old v := by simp [t]
  rw [readIreg_of_exists (s := t) sign hw hi, hreg]
  have hview : viewGet t.cfg.order t.xlen size.bits
      (viewPut s.cfg.order s.xlen size.bits old v) = v :=
    viewGet_viewPut s.cfg.order hw s.xlen_le_64 old v
  rw [hview, State.respond]

/-- Settles O14: the views of the statement are the four sizes. -/
theorem writeThenReadSameView : Obligations.WriteThenReadSameView := by
  intro s i w write readS readU hi hmem hw
  obtain ⟨size, -, heq⟩ := List.mem_map.mp (show (w, write, readS, readU) ∈
    [Size.byte, .half, .word, .wide].map fun size =>
      (size.bits, size.iwr .signed i, size.ird .signed i, size.ird .unsigned i) from hmem)
  obtain ⟨rfl, rfl, rfl, rfl⟩ : size.bits = w ∧ size.iwr .signed i = write
      ∧ size.ird .signed i = readS ∧ size.ird .unsigned i = readU := by simpa using heq
  exact ⟨_, (exec_iwr size .signed i s).trans (writeIreg_of_exists hw hi),
    (exec_ird size .signed i _).trans (readIreg_after_write .signed _ _ hw hi),
    (exec_ird size .unsigned i _).trans (readIreg_after_write .unsigned _ _ hw hi)⟩

end Sys2Proof.Machine
end

section
/-! PROOF of O15 and O36 (R31, R66, R109, R140, R141). A view as wide as its register reads and
replaces all of it; in the wide FP variant those are all the views but `single`, which is one
half. -/

namespace Sys2Proof.Machine

/-- R99: a value of 64 bits is presented as it is, whatever its signedness. -/
theorem present_setWidth_of_eq {w : Nat} (hw : w = 64) (sign : Sign) (v : Word) :
    present sign (v.setWidth w) = v := by
  subst hw
  cases sign <;> simp [present, sext64, zext64]

theorem setWidth_setWidth_of_eq {w : Nat} (hw : w = 64) (v : Word) :
    (v.setWidth w).setWidth 64 = v := by
  subst hw
  simp

section WideFp

variable {s : State} {view : FView} {i : RegIdx}

/-- R98: in the wide variant every view but `single` is the whole register. -/
theorem FView.bits_of_f64 (h64 : s.cfg.flen = .f64) (hview : view ≠ .single) :
    view.bits s.cfg.flen = 64 := by
  rw [h64]
  cases view with
  | raw | rawUnsigned | double => rfl
  | single => exact absurd rfl hview

theorem readFreg_whole (h64 : s.cfg.flen = .f64) (hview : view ≠ .single)
    (hi : i.val < s.cfg.fregCount) :
    readFreg view i s = .next (s.respond s.arch.freg[i] .ok 0) := by
  have hw : view.bits s.cfg.flen = s.flen :=
    (FView.bits_of_f64 h64 hview).trans (State.flen_of_f64 h64).symm
  rw [readFreg_of_exists hw.le hi, viewGet_of_whole hw,
    present_setWidth_of_eq (FView.bits_of_f64 h64 hview)]

theorem writeFreg_whole (h64 : s.cfg.flen = .f64) (hview : view ≠ .single)
    (hi : i.val < s.cfg.fregCount) :
    writeFreg view i s = .next ((s.setFreg i s.port.wdata).respond 0 .ok 0) := by
  have hw : view.bits s.cfg.flen = s.flen :=
    (FView.bits_of_f64 h64 hview).trans (State.flen_of_f64 h64).symm
  rw [writeFreg_of_exists hw.le hi, viewPut_of_whole hw,
    setWidth_setWidth_of_eq (FView.bits_of_f64 h64 hview)]

/-- R68 at the half of a 64-bit register: the other half is kept. -/
theorem viewPut_half (order : ByteOrder) (r : Word) (v : BitVec 32) :
    viewPut order 64 32 r v = match order with
      | .little => r.extractLsb' 32 32 ++ v
      | .big => v ++ r.extractLsb' 0 32 := by
  cases order with
  | little => exact BitVec.setWidth_eq _
  | big => exact BitVec.setWidth_eq _

/-- R31: no NaN-boxing. -/
theorem writeFreg_single (h64 : s.cfg.flen = .f64) (hi : i.val < s.cfg.fregCount) :
    writeFreg .single i s = .next ((s.setFreg i (match s.cfg.order with
      | .little => s.arch.freg[i].extractLsb' 32 32 ++ s.port.wdata.extractLsb' 0 32
      | .big => s.port.wdata.extractLsb' 0 32 ++ s.arch.freg[i].extractLsb' 0 32)).respond
        0 .ok 0) := by
  have hlow : s.port.wdata.extractLsb' 0 32 = s.port.wdata.setWidth 32 :=
    (BitVec.setWidth_eq_extractLsb' (by decide)).symm
  rw [writeFreg_of_exists (FView.single_bits_le_flen s) hi, State.flen_of_f64 h64, hlow]
  exact congrArg (fun r => Host.Outcome.next ((s.setFreg i r).respond 0 .ok 0))
    (viewPut_half s.cfg.order s.arch.freg[i] _)

/-- R66: the register as it was written, through a view that is all of it. -/
theorem readFreg_whole_of_written (h64 : s.cfg.flen = .f64) (hview : view ≠ .single)
    (hi : i.val < s.cfg.fregCount) (v : Word) :
    readFreg view i ((s.setFreg i v).respond 0 .ok 0)
      = .next (((s.setFreg i v).respond 0 .ok 0).answered v .ok 0) := by
  rw [readFreg_whole (s := (s.setFreg i v).respond 0 .ok 0) h64 hview hi]
  simp [State.respond]

/-- R66: the half of the register as it was written that the single view aliases. -/
theorem readFreg_single_of_written (h64 : s.cfg.flen = .f64) (hi : i.val < s.cfg.fregCount)
    (v : Word) :
    readFreg .single i ((s.setFreg i v).respond 0 .ok 0)
      = .next (((s.setFreg i v).respond 0 .ok 0).answered (match s.cfg.order with
        | .little => (v.extractLsb' 0 32).setWidth 64
        | .big => (v.extractLsb' 32 32).setWidth 64) .ok 0) := by
  have hflen : ((s.setFreg i v).respond 0 .ok 0).flen = 64 := State.flen_of_f64 h64
  have hreg : ((s.setFreg i v).respond 0 .ok 0).arch.freg[i] = v := by simp
  rw [readFreg_of_exists (s := (s.setFreg i v).respond 0 .ok 0) (FView.single_bits_le_flen _) hi,
    hflen, hreg, respond_cfg, setFreg_cfg]
  cases s.cfg.order with
  | little => rfl
  | big => rfl

end WideFp

/-- Settles O15: the views of the statement are those but `single`. -/
theorem fpViewsReinterpretOneRegister : Obligations.FpViewsReinterpretOneRegister := by
  intro s i write h64 hi hmem
  have hne : ∀ view ∈ [FView.raw, .rawUnsigned, .double], view ≠ .single := by decide
  obtain ⟨view, hview, rfl⟩ := List.mem_map.mp
    (show write ∈ [FView.raw, .rawUnsigned, .double].map (FView.fwr · i) from hmem)
  refine ⟨⟨_, (exec_fwr view i s).trans (writeFreg_whole h64 (hne view hview) hi), ?whole, ?half⟩,
    ⟨_, (exec_fwr .single i s).trans (writeFreg_single h64 hi), ?kept⟩⟩
  case whole =>
    refine List.forall_mem_map (f := (FView.frd · i)) (l := [.raw, .rawUnsigned, .double]).mpr
      fun view hview => ?_
    exact (exec_frd view i _).trans (readFreg_whole_of_written h64 (hne view hview) hi _)
  case half =>
    exact (exec_frd .single i _).trans (readFreg_single_of_written h64 hi _)
  case kept =>
    exact (exec_frd .double i _).trans (readFreg_whole_of_written (view := .double) h64 nofun hi _)

/-- The view as wide as an integer register. -/
def nativeSize : XLen → Size
  | .x32 => .word
  | .x64 => .wide

theorem nativeSize_bits (x : XLen) : (nativeSize x).bits = x.bits := by
  cases x <;> rfl

theorem readIreg_native {s : State} {i : RegIdx} (sign : Sign) (hi : i.val < s.cfg.iregCount) :
    readIreg (nativeSize s.cfg.xlen) sign i s
      = .next (s.respond (present sign (s.arch.ireg[i].setWidth s.cfg.xlen.bits)) .ok 0) := by
  have hw : (nativeSize s.cfg.xlen).bits = s.xlen := nativeSize_bits s.cfg.xlen
  rw [readIreg_of_exists sign hw.le hi, viewGet_of_whole hw, nativeSize_bits]

theorem writeIreg_native {s : State} {i : RegIdx} (hi : i.val < s.cfg.iregCount) :
    writeIreg (nativeSize s.cfg.xlen) i s
      = .next ((s.setIreg i (truncTo s.cfg.xlen.bits s.port.wdata)).respond 0 .ok 0) := by
  have hw : (nativeSize s.cfg.xlen).bits = s.xlen := nativeSize_bits s.cfg.xlen
  rw [writeIreg_of_exists hw.le hi, viewPut_of_whole hw, nativeSize_bits, truncTo]

/-- R40, R109: the word of `lr.clear` cut to XLEN bits is ones(XLEN). -/
theorem truncTo_allOnes (x : XLen) :
    truncTo x.bits 0xFFFFFFFFFFFFFFFF#64 = BitVec.ofNat 64 (2 ^ x.bits - 1) := by
  cases x <;> decide

/-- Settles O36: the native-width integer command is the one of `nativeSize`. -/
theorem nativePseudoCommandsMoveTheWholeRegister :
    Obligations.NativePseudoCommandsMoveTheWholeRegister := by
  intro s i v x iwhole fwhole issued stored ird irdu iwr
  have hird : ird = (nativeSize x).ird .signed i := by
    change (match x with | .x32 => Instr.irdW i | .x64 => .irdD i) = _
    cases x <;> rfl
  have hirdu : irdu = (nativeSize x).ird .unsigned i := by
    change (match x with | .x32 => Instr.irdWU i | .x64 => .irdDU i) = _
    cases x <;> rfl
  have hiwr : iwr = (nativeSize x).iwr .signed i := by
    change (match x with | .x32 => Instr.iwrW i | .x64 => .iwrD i) = _
    cases x <;> rfl
  refine ⟨⟨rfl, rfl, rfl, rfl, rfl, rfl⟩, fun hi => ⟨?ird, ?irdu, ?iwr⟩, fun hi => ?fp, ?lrClear⟩
  case ird =>
    rw [hird]
    exact (exec_ird _ .signed i _).trans (readIreg_native (s := issued 0) .signed hi)
  case irdu =>
    rw [hirdu]
    exact (exec_ird _ .unsigned i _).trans (readIreg_native (s := issued 0) .unsigned hi)
  case iwr =>
    rw [hiwr]
    exact (exec_iwr _ .signed i _).trans (writeIreg_native (s := issued v) hi)
  case fp =>
    obtain ⟨-, ⟨-, hfrd⟩, -⟩ := fregReads (issued 0) i hi
    obtain ⟨-, ⟨-, hfwr⟩, -⟩ := fregWrites (issued v) i hi
    exact ⟨hfrd, hfwr⟩
  case lrClear =>
    rw [← truncTo_allOnes]
    exact writeScalar_eq .lr _

end Sys2Proof.Machine
end
